-- ==== Sys2Proof/Word.lean ====
section
/-! DEFINITION. The widths of the hardware's values (spec/00_scope.md R4, R6, R7, R8; spec/30_encoding.md R51). -/

namespace Sys2Proof

/-- The packed view of a register: cell `i` is bit `i`, bit 0 least significant (R8; decision D1). -/
abbrev Word := BitVec 32

/-- A symbol, a keystream byte, an output value or a table entry: 8 bits, unsigned (R6, R7). -/
abbrev Symbol := BitVec 8

/-- The command word `cw[8:0]`, the value of the two command ports (R51). -/
abbrev CommandWord := BitVec 9

/-- The index of a cell of a register, in range by its type (R35). -/
abbrev CellIndex := Fin 32

end Sys2Proof
end

