-- ==== Sys2Proof/Syntax.lean ====
section
/-! DEFINITION. The two host commands (spec/30_encoding.md R56; spec/opcode_table.json). -/

namespace Sys2Proof

/-- A command: one constructor per row of the opcode table. The operand is `imm8`, the input symbol (R51, R52). -/
inductive Instr where
  /-- `ENC imm8`: encrypt one symbol (spec/44_driver.md R111). -/
  | enc (imm : Symbol)
  /-- `DEC imm8`: decrypt one symbol (spec/44_driver.md R112). -/
  | dec (imm : Symbol)
  deriving DecidableEq, Repr

end Sys2Proof
end

