-- ==== Sys2Proof/WellFormed.lean ====
section
/-! DEFINITION. The checks on a command and on a line of the assembler notation (spec/30_encoding.md R52, R60, R61). -/

namespace Sys2Proof

/-- A command's operand is a byte, 0 to 255 (R52). The type of `Instr` holds a byte, so every command passes: all 512
command words are legal (R58), and a wider symbol cannot be written down (spec/93_implementation_defined.md U5). -/
def Instr.wellFormed : Instr → Bool
  | .enc imm => decide (imm.toNat ≤ 255)
  | .dec imm => decide (imm.toNat ≤ 255)

/-- `imm8` as a program writes it (R60): a number, in decimal or in hexadecimal, or one ASCII character in quotes. -/
inductive Imm8 where
  /-- A number; its two spellings, decimal and `0x`, denote the same operand. -/
  | number (n : Nat)
  /-- One character in single quotes, `'A'` = 0x41. -/
  | ascii (c : Char)
  deriving DecidableEq, Repr

/-- The value of an operand. -/
def Imm8.value : Imm8 → Nat
  | .number n => n
  | .ascii c => c.toNat

/-- A number is 0 to 255; a character is an ASCII character (R60). A host that holds wider symbols narrows them before
it writes them (spec/70_reset_and_hazards.md R161). -/
def Imm8.wellFormed : Imm8 → Bool
  | .number n => decide (n ≤ 255)
  | .ascii c => decide (c.toNat ≤ 127)

/-- One line of a program: the two commands (R60) and the pseudo-instructions (R61). -/
inductive Line where
  /-- `ENC imm8`. -/
  | enc (imm : Imm8)
  /-- `DEC imm8`. -/
  | dec (imm : Imm8)
  /-- `RST`: one cycle with `rst` = 1. -/
  | rst
  /-- `IDLE n`: n cycles with `rst` = 0 and `cmd_valid` = 0. -/
  | idle (n : Nat)
  /-- `ENCS b0, ..., bn`: one `ENC` per operand; with no operand, nothing. -/
  | encs (imms : List Imm8)
  /-- `DECS b0, ..., bn`: one `DEC` per operand; with no operand, nothing. -/
  | decs (imms : List Imm8)
  /-- `KSB`: `ENC 0x00`, whose output is the keystream byte itself. -/
  | ksb
  deriving DecidableEq, Repr

/-- Every operand of the line is one R60 admits. -/
def Line.wellFormed : Line → Bool
  | .enc imm => imm.wellFormed
  | .dec imm => imm.wellFormed
  | .rst => true
  | .idle _ => true
  | .encs imms => imms.all Imm8.wellFormed
  | .decs imms => imms.all Imm8.wellFormed
  | .ksb => true

/-- A line of a program over several engines: the engine's number and the line (R61, `E1: ENC 0x41`). -/
structure PlacedLine where
  /-- Which engine of the system the line is for. -/
  engine : Nat
  /-- What that engine is given. -/
  line : Line
  deriving DecidableEq, Repr

end Sys2Proof
end

