-- ==== Sys2Proof/Decode.lean ====
section
/-! DEFINITION. The command word, its decoder and its encoder (spec/30_encoding.md R51, R52, R56, R58, R59, R63). -/

namespace Sys2Proof

/-- `cw[8]`, the opcode: 0 is ENC, 1 is DEC (R51). -/
def CommandWord.dir (cw : CommandWord) : Bool := cw.getLsbD 8

/-- `cw[7:0]`, the immediate, taken as it stands (R52). -/
def CommandWord.data (cw : CommandWord) : Symbol := cw.extractLsb' 0 8

/-- `{cmd_dir, cmd_data[7:0]}`, the direction in the more significant position (R51). -/
def CommandWord.make (dir : Bool) (data : Symbol) : CommandWord := BitVec.ofBool dir ++ data

/-- The decoder (R63): `cw[8] = 0 -> ENC cw[7:0]`, `cw[8] = 1 -> DEC cw[7:0]`. It has no reject arm, because all 512
words are legal (R58; U14). -/
def decode (cw : CommandWord) : Instr :=
  if cw.dir then .dec cw.data else .enc cw.data

/-- The encoder (R60): `ENC imm8` is `0x000 | imm8`, `DEC imm8` is `0x100 | imm8`. -/
def encode : Instr → CommandWord
  | .enc imm => CommandWord.make false imm
  | .dec imm => CommandWord.make true imm

/-- A row of the opcode map (R56): a word `w` selects the row for which `w & mask = pattern`. -/
structure OpcodeRow where
  /-- The mnemonic of spec/opcode_table.json. -/
  mnemonic : String
  /-- The match column. -/
  pattern : CommandWord
  /-- The mask column. -/
  mask : CommandWord
  deriving DecidableEq, Repr

/-- The row of ENC (R56, R111). -/
def rowEnc : OpcodeRow := { mnemonic := "ENC", pattern := 0x000#9, mask := 0x100#9 }

/-- The row of DEC (R56, R112). -/
def rowDec : OpcodeRow := { mnemonic := "DEC", pattern := 0x100#9, mask := 0x100#9 }

/-- The whole opcode map: "complete in two rows" (R56). -/
def opcodeRows : List OpcodeRow := [rowEnc, rowDec]

/-- The word selects the row (R56). -/
def OpcodeRow.selects (r : OpcodeRow) (w : CommandWord) : Bool := w &&& r.mask == r.pattern

/-- The row of a command's mnemonic. -/
def rowOf : Instr → OpcodeRow
  | .enc _ => rowEnc
  | .dec _ => rowDec

/-- Why a string of bits is no command word. -/
inductive DecodeReject where
  /-- A bit above `cw[8]` is set: the two command ports carry nine bits, so no host can present the word (R51, R59). -/
  | widerThanCommandWord
  deriving DecidableEq, Repr

/-- The command word among bits numbered as the opcode table numbers them: nine bits and nothing above them
(notes/assumptions/4.md). -/
def commandWordOf (w : Nat) : Except DecodeReject CommandWord :=
  if w < 512 then .ok (BitVec.ofNat 9 w) else .error .widerThanCommandWord

/-- DESIGN CHOICE (notes/assumptions/10.md): a byte string is read first byte least significant, so two bytes carry the
nine bits, and a byte that is not there is 0. The spec gives the command word no byte form and says that byte order does
not arise (spec/20_memory.md R33); the machine's own step reads the nine wires and never a byte string. -/
def natOfBytes : List (BitVec 8) → Nat
  | [] => 0
  | b :: rest => b.toNat + 256 * natOfBytes rest

/-- The decoder on any bytes: the command, or the reason there is none. The byte form is the model's, DESIGN CHOICE
(notes/assumptions/10.md): first byte least significant, bytes that are not there 0 (so one byte is an ENC of it and no
byte at all is `ENC 0x00`), and a set bit above `cw[8]` rejected. The spec has the one length of nine bits (R59). -/
def decodeBytes (bytes : List (BitVec 8)) : Except DecodeReject Instr :=
  match commandWordOf (natOfBytes bytes) with
  | .ok cw => .ok (decode cw)
  | .error r => .error r

/-- The instruction the decoder reads from the table word `w`. The command word has nine bits whatever `nbits` the row
is given in, and the bits above `nbits` are 0, so `nbits` decides nothing. -/
def decodeTableWord (_nbits w : Nat) : Option Instr :=
  match commandWordOf w with
  | .ok cw => some (decode cw)
  | .error _ => none

end Sys2Proof
end

