-- ==== Sys2Proof/Config.lean ====
section
/-! DEFINITION. What this hardware fixes (the parameter table of spec/00_scope.md, R4 to R7) and the one value the
spec leaves open (spec/30_encoding.md R53; spec/93_implementation_defined.md U2). -/

namespace Sys2Proof.Config

/-- `TAPS_K`, 16 taps, in the source's order (spec/41_feedback.md R81). -/
def tapsK : List CellIndex := [31, 27, 26, 25, 24, 23, 22, 17, 13, 11, 10, 9, 8, 7, 2, 0]

/-- `TAPS_A`, 14 taps, in the source's order (spec/41_feedback.md R82). -/
def tapsA : List CellIndex := [31, 26, 23, 22, 16, 12, 11, 10, 8, 7, 5, 4, 2, 0]

/-- `TAPS_B`, 9 taps, in the source's order (spec/41_feedback.md R83). -/
def tapsB : List CellIndex := [31, 30, 20, 19, 15, 14, 5, 2, 0]

/-- The keystream window: the eight highest cells, in rising order (spec/43_keystream.md R100; decision D13). -/
def window : List CellIndex := [24, 25, 26, 27, 28, 29, 30, 31]

/-- The substitution table `T`, 256 entries, the identity (spec/00_scope.md R6; spec/10_state.md R20). The index type
gives it its 256 entries; it is a constant, so neither reset nor a command can change it (spec/20_memory.md R32). -/
def table : Symbol → Symbol := fun j => j

/-- The modulus of the keystream sum (spec/43_keystream.md R102). -/
def keystreamModulus : Nat := 256

/-- What every register holds after a reset event (spec/10_state.md R14). -/
def resetWord : Word := 0#32

/-- FREE VALUE: what stands on `out_data` in a cycle where `out_valid` is 0. The spec leaves it unspecified (R53, R151,
U2: "any value"), so it has no body; the argument is the draw counter of the state (notes/assumptions/1.md). -/
opaque freeOutData : Nat → Symbol

end Sys2Proof.Config
end

