-- ==== Sys2Proof/Machine/State.lean ====
section
/-! DEFINITION. The state of one engine and of the host that drives it (spec/10_state.md; spec/30_encoding.md R50). -/

namespace Sys2Proof.Machine

/-- The names of the three registers (spec/10_state.md R11). -/
inductive RegName where
  | A
  | B
  | K
  deriving DecidableEq, Repr

/-- The architectural state of an engine: "exactly the triple of registers (A, B, K): 96 bits" (R10). -/
structure Engine where
  /-- Register A, packed (R8, R11). -/
  a : Word
  /-- Register B, packed. -/
  b : Word
  /-- Register K, packed; no key (R11). -/
  k : Word
  deriving DecidableEq, Repr

/-- The engine after construction: every cell 0 (R14). -/
def Engine.fresh : Engine :=
  { a := Config.resetWord, b := Config.resetWord, k := Config.resetWord }

/-- The input pins in one clock cycle (spec/30_encoding.md R50). Wires, not registers (R18). -/
structure Pins where
  /-- Synchronous reset, active high. -/
  rst : Bool
  /-- The host presents a command in this cycle. -/
  cmdValid : Bool
  /-- 0 = ENC, 1 = DEC; bit 8 of the command word. -/
  cmdDir : Bool
  /-- The symbol; bits 7..0 of the command word. -/
  cmdData : Symbol
  deriving DecidableEq, Repr

/-- The output pins in one clock cycle (R50). -/
structure OutPort where
  /-- `out_data` carries the result of the command presented in the same cycle. -/
  valid : Bool
  /-- The output value; unspecified while `valid` is 0 (R53). -/
  data : Symbol
  deriving DecidableEq, Repr

/-- Whether a reset event has happened since power-on (spec/70_reset_and_hazards.md R152; notes/assumptions/3.md). -/
inductive Lifecycle where
  /-- Powered on and not yet reset: the registers hold unspecified values. -/
  | poweredOn
  /-- A reset event has happened, so the rules of the spec hold (R153). -/
  | constructed
  deriving DecidableEq, Repr

/-- One engine (`engine`), its output pins (`out`), and the host side the fixed step needs as data: the cycles the host
will present and the outputs it has taken (notes/assumptions/2.md). Only `engine` is the hardware's state (R10). -/
structure State where
  /-- The registers (R10). -/
  engine : Engine
  /-- MODEL: whether a reset event has happened since power-on. -/
  lifecycle : Lifecycle
  /-- The output pins as they stood in the last cycle that was run. -/
  out : OutPort
  /-- MODEL, host side: the input pins of the cycles to come, the next cycle first (spec/20_memory.md R34). -/
  pending : List Pins
  /-- MODEL, host side: the output values taken, the first one first (spec/20_memory.md R34). -/
  taken : List Symbol
  /-- MODEL: how many free values of `out_data` have been handed out (notes/assumptions/1.md). -/
  draws : Nat
  deriving DecidableEq, Repr

/-- The engine raises no exception (spec/60_exceptions.md R130): there is no fault, so nothing raises one. -/
inductive Fault where
  deriving DecidableEq, Repr

/-- Why a step is given no meaning. -/
inductive Refusal where
  /-- Raised by `exec` for an instruction that has no meaning yet: safe. No arm raises it. -/
  | notModelled (mnemonic : String)
  /-- Raised by a clock cycle that presents a command before the first reset event since power-on: safe. The spec gives
  such a run no meaning (spec/60_exceptions.md R132; spec/70_reset_and_hazards.md R152; decision D15). -/
  | commandBeforeReset
  deriving DecidableEq, Repr

/-- Right after the reset event (spec/70_reset_and_hazards.md R150, R151): registers zero, `out_valid` 0, `out_data`
free; the host has presented and taken nothing (notes/assumptions/5.md). -/
def State.reset : State :=
  { engine := Engine.fresh
    lifecycle := .constructed
    out := { valid := false, data := Config.freeOutData 0 }
    pending := []
    taken := []
    draws := 1 }

/-- Power-on, before the first reset event: any register contents `e` and any output pins `o` (R152); the host is about
to present the cycles `ps`. -/
def State.powerOn (e : Engine) (o : OutPort) (ps : List Pins) : State :=
  { engine := e, lifecycle := .poweredOn, out := o, pending := ps, taken := [], draws := 0 }

end Sys2Proof.Machine
end

