-- ==== Sys2Proof/Machine/Ops.lean ====
section
/-! DEFINITION. The named operations: the Register Bank (spec/40_register_bank.md R70 to R73), the table read
(spec/20_memory.md R31), the reset event (spec/70_reset_and_hazards.md R150) and the idle cycle (spec/30_encoding.md
R54). The hardware has no exception to take and none to return from (spec/60_exceptions.md R135, R136). -/

namespace Sys2Proof.Machine

/-- CELL_READ on one register: `R[i]` (R70). -/
def cellRead (r : Word) (i : CellIndex) : Bool := r.getLsbD i.val

/-- CELL_WRITE on one register: `R <- (R & ~(1 << i)) | (v << i)` (R71). -/
def cellWrite (r : Word) (i : CellIndex) (v : Bool) : Word :=
  (r &&& ~~~(1#32 <<< i.val)) ||| ((BitVec.ofBool v).zeroExtend 32 <<< i.val)

/-- SHIFT: cell `i` takes old cell `i - 1`, old cell 31 is lost, the vacant cell 0 is shown as 0 (R72; decision D12).
The packed view moves toward the most significant bit (spec/90_conflicts.md C5). -/
def shift (r : Word) : Word := r <<< 1

/-- The register a name stands for. -/
def Engine.get (e : Engine) : RegName → Word
  | .A => e.a
  | .B => e.b
  | .K => e.k

/-- Write all 32 cells of the named register. -/
def Engine.set (e : Engine) (n : RegName) (r : Word) : Engine :=
  match n with
  | .A => { e with a := r }
  | .B => { e with b := r }
  | .K => { e with k := r }

/-- `CELL_READ(R, i)` on the bank (R70). -/
def Engine.readCell (e : Engine) (n : RegName) (i : CellIndex) : Bool := cellRead (e.get n) i

/-- `CELL_WRITE(R, i, v)` on the bank: every other cell keeps its value (R71). -/
def Engine.writeCell (e : Engine) (n : RegName) (i : CellIndex) (v : Bool) : Engine :=
  e.set n (cellWrite (e.get n) i v)

/-- All three registers shift in the same step, each by one position (R73). -/
def Engine.shiftAll (e : Engine) : Engine :=
  { a := shift e.a, b := shift e.b, k := shift e.k }

/-- `MemRead(j, 1) = T[j]` over a table `T` (R31). It has no effect on anything (R36). -/
def memRead (t : Symbol → Symbol) (j : Symbol) : Symbol := t j

/-- The number of 1 bits of a value (spec/00_scope.md R8, notation). -/
def popcount {w : Nat} (v : BitVec w) : Nat := (List.range w).countP (fun i => v.getLsbD i)

/-- `parity(v) = popcount(v) mod 2` (spec/00_scope.md R8, notation). -/
def parity {w : Nat} (v : BitVec w) : Bool := decide (popcount v % 2 = 1)

/-- A cycle in which `out_valid` is 0: `out_data` is a fresh free value (R53; notes/assumptions/1.md). -/
def State.driveNoOutput (s : State) : State :=
  { s with out := { valid := false, data := Config.freeOutData s.draws }, draws := s.draws + 1 }

/-- The reset event: all three registers to zero and nothing else (R150), no output (R151). -/
def resetEvent (s : State) : State :=
  { s with engine := Engine.fresh, lifecycle := .constructed }.driveNoOutput

/-- An idle cycle changes nothing and produces nothing (R54). -/
def idleCycle (s : State) : State := s.driveNoOutput

/-- No reset and no command: `cmd_dir` and `cmd_data` are ignored (R54), so any values will do. -/
def Pins.idle : Pins := { rst := false, cmdValid := false, cmdDir := false, cmdData := 0#8 }

/-- One cycle with `rst` = 1 (spec/30_encoding.md R61, `RST`). -/
def Pins.reset : Pins := { rst := true, cmdValid := false, cmdDir := false, cmdData := 0#8 }

/-- The pins in a cycle that presents the command word `cw` (R51). -/
def Pins.command (cw : CommandWord) : Pins :=
  { rst := false, cmdValid := true, cmdDir := cw.dir, cmdData := cw.data }

/-- The command word on the two command ports (R51). -/
def Pins.commandWord (p : Pins) : CommandWord := CommandWord.make p.cmdDir p.cmdData

/-- The cycle is one in which a command is accepted: `rst` = 0 and `cmd_valid` = 1 (R53). -/
def Pins.accepts (p : Pins) : Bool := !p.rst && p.cmdValid

/-- The state with the cycles `ps` for the host to present. -/
def State.withPending (s : State) (ps : List Pins) : State := { s with pending := ps }

/-- The pins of the cycle that is about to run; a host with no cycle left to present leaves the engine idle
(notes/assumptions/2.md). -/
def State.sampledPins (s : State) : Pins := s.pending.headD Pins.idle

/-- The host moves on to its next cycle. -/
def State.endCycle (s : State) : State := s.withPending s.pending.tail

/-- The state whose next cycle presents the table word `w` (notes/assumptions/4.md); where `w` is no command word there
is nothing to present. -/
def State.presentTableWord (s : State) (w : Nat) : State :=
  match commandWordOf w with
  | .ok cw => s.withPending (Pins.command cw :: s.pending)
  | .error _ => s

end Sys2Proof.Machine
end

