-- ==== Sys2Proof/Machine/Flags.lean ====
section
/-! DEFINITION. The engine has no flag, condition code or predicate (spec/10_state.md R17): no operation records a
carry, a zero, an overflow or an error. The only status the host is told is `out_valid` (spec/60_exceptions.md R133),
which a command drives to 1 with its output; that is here. -/

namespace Sys2Proof.Machine

/-- A command's cycle: `out_valid` = 1 and `out_data` = the output value (spec/30_encoding.md R53). -/
def OutPort.carrying (v : Symbol) : OutPort := { valid := true, data := v }

/-- The registers take their new values, the output value stands on the port, and the host takes it in the same cycle
(R50: "the host must take `out_data` in the cycle it is valid"). -/
def State.complete (s : State) (r : Engine × Symbol) : State :=
  { s with engine := r.1, out := OutPort.carrying r.2, taken := s.taken ++ [r.2] }

end Sys2Proof.Machine
end

