-- ==== Sys2Proof/Machine/Keystream.lean ====
section
/-! DEFINITION. The Keystream Generator (spec/43_keystream.md R100 to R102, R105). -/

namespace Sys2Proof.Machine

/-- The 16-cell sequence: A's eight cells first, then B's (R100). -/
def windowCells (a b : Word) : List Bool :=
  Config.window.map (cellRead a) ++ Config.window.map (cellRead b)

/-- A single cell as a table index: 0 or 1, never a packed byte (R101). -/
def cellIndex (c : Bool) : Symbol := (BitVec.ofBool c).zeroExtend 8

/-- The unreduced sum of the 16 substituted values, a natural number (R102). -/
def windowSum (t : Symbol → Symbol) (a b : Word) : Nat :=
  ((windowCells a b).map (fun c => (memRead t (cellIndex c)).toNat)).sum

/-- `KS` over a table `T` (R102, R104): the sum reduced once, modulo 256. -/
def keystreamOver (t : Symbol → Symbol) (a b : Word) : Symbol :=
  BitVec.ofNat 8 (windowSum t a b % Config.keystreamModulus)

/-- `KS(A, B)` on this hardware's table (R102). -/
def keystream (a b : Word) : Symbol := keystreamOver Config.table a b

/-- The other realisation R105 allows: an 8-bit accumulator that wraps. -/
def keystreamWrapping (t : Symbol → Symbol) (a b : Word) : Symbol :=
  (windowCells a b).foldl (fun acc c => acc + memRead t (cellIndex c)) 0#8

end Sys2Proof.Machine
end

