-- ==== Sys2Proof/Machine/Operands.lean ====
section
/-! DEFINITION. The one operand form: the immediate byte of the command word (spec/30_encoding.md R52). The hardware
has no register operand, no address and no scaled or signed operand. -/

namespace Sys2Proof.Machine

/-- `data = cw[7:0]` as it stands: not sign-extended, scaled, shifted or permuted (R52). -/
def operand : Instr → Symbol
  | .enc imm => imm
  | .dec imm => imm

/-- The operand's value as a number, `zext(cw[7:0])` (R52). -/
def operandValue (i : Instr) : Nat := (operand i).toNat

/-- The direction bit of a command: 0 ENC, 1 DEC (R51). -/
def direction : Instr → Bool
  | .enc _ => false
  | .dec _ => true

end Sys2Proof.Machine
end

