-- ==== Sys2Proof/Machine/Feedback.lean ====
section
/-! DEFINITION. The Feedback Engine: three parity networks (spec/41_feedback.md R80 to R83). -/

namespace Sys2Proof.Machine

/-- The xor of the tapped cells (R80). -/
def tapParity (taps : List CellIndex) (r : Word) : Bool :=
  (taps.map (cellRead r)).foldr xor false

/-- `mask(S)`, the sum of 2^i over the tap set (R80). -/
def tapMask (taps : List CellIndex) : Word :=
  BitVec.ofNat 32 ((taps.map (fun i => 2 ^ i.val)).sum)

/-- `FB_K`, the feedback bit fK (R81). -/
def fbK (k : Word) : Bool := tapParity Config.tapsK k

/-- `FB_A`, the feedback bit fA (R82). -/
def fbA (a : Word) : Bool := tapParity Config.tapsA a

/-- `FB_B`, the feedback bit fB (R83). -/
def fbB (b : Word) : Bool := tapParity Config.tapsB b

end Sys2Proof.Machine
end

