-- ==== Sys2Proof/Machine/StepFunction.lean ====
section
/-! DEFINITION. STEP, the state transition (spec/42_step.md R90 to R93), and its inverse (R96 law 3). -/

namespace Sys2Proof.Machine

/-- STEP (R90): feedback from the pre-shift registers, shift all three, fill cell 0 of each, cross-coupled (R92). -/
def stepEngine (e : Engine) : Engine :=
  let fK := fbK e.k
  let fA := fbA e.a
  let fB := fbB e.b
  ((e.shiftAll.writeCell .K 0 (xor fA fB)).writeCell .A 0 fK).writeCell .B 0 (xor fK fA)

/-- `STEP^n` (R94). -/
def stepsEngine : Nat → Engine → Engine
  | 0, e => e
  | n + 1, e => stepsEngine n (stepEngine e)

/-- The old register from the new one and its old feedback bit: old cell `i` is new cell `i + 1`, and old cell 31 is the
feedback bit xor the other taps (R96 law 3). -/
def unshift (taps : List CellIndex) (f : Bool) (r' : Word) : Word :=
  cellWrite (r' >>> 1) 31 (xor f (tapParity (taps.erase 31) (r' >>> 1)))

/-- The inverse of STEP as R96 law 3 gives it. -/
def unstepEngine (e : Engine) : Engine :=
  let fK := cellRead e.a 0
  let fA := xor (cellRead e.a 0) (cellRead e.b 0)
  let fB := xor (cellRead e.k 0) (xor (cellRead e.a 0) (cellRead e.b 0))
  { a := unshift Config.tapsA fA e.a
    b := unshift Config.tapsB fB e.b
    k := unshift Config.tapsK fK e.k }

end Sys2Proof.Machine
end

