-- ==== Sys2Proof/Machine/Driver.lean ====
section
/-! DEFINITION. The Cipher Driver: the meanings of ENC and DEC (spec/44_driver.md R110 to R112). -/

namespace Sys2Proof.Machine

/-- What one symbol does (R110): step, keystream byte of the post-step state (spec/43_keystream.md R106), xor. -/
def processSymbol (e : Engine) (d : Symbol) : Engine × Symbol :=
  let e1 := stepEngine e
  (e1, d ^^^ keystream e1.a e1.b)

/-- `ENC imm8` (R111). -/
def execEnc (imm : Symbol) (s : State) : Host.Outcome State Fault Refusal :=
  .next (s.complete (processSymbol s.engine (operand (.enc imm))))

/-- `DEC imm8` (R112): identical mechanics to ENC; it steps forward once. -/
def execDec (imm : Symbol) (s : State) : Host.Outcome State Fault Refusal :=
  .next (s.complete (processSymbol s.engine (operand (.dec imm))))

end Sys2Proof.Machine
end

