-- ==== Sys2Proof/Machine/Dispatch.lean ====
section
/-! DEFINITION. One arm per command (spec/30_encoding.md R56). -/

namespace Sys2Proof.Machine

/-- The meaning of a command at a register state, total on every state (spec/00_scope.md R9; spec/60_exceptions.md R130). -/
def exec (i : Instr) (s : State) : Host.Outcome State Fault Refusal :=
  match i with
  | .enc imm => Sys2Proof.Machine.execEnc imm s
  | .dec imm => Sys2Proof.Machine.execDec imm s

end Sys2Proof.Machine
end

