-- ==== Sys2Proof/Machine/Cycle.lean ====
section
/-! DEFINITION. One clock cycle: exactly one of reset, a command, idle (spec/30_encoding.md R53). -/

namespace Sys2Proof.Machine

/-- The command on the port is accepted: it is decoded and has its effect (R53). Before the first reset event the run has
no meaning (spec/60_exceptions.md R132; notes/assumptions/3.md). -/
def acceptCommand (cw : CommandWord) (s : State) : Host.Outcome State Fault Refusal :=
  match s.lifecycle with
  | .poweredOn => .refused .commandBeforeReset
  | .constructed => exec (decode cw) s

/-- The three cases of R53; reset wins over a command in the same cycle (spec/60_exceptions.md R134). -/
def clockCycle (p : Pins) (s : State) : Host.Outcome State Fault Refusal :=
  if p.rst then .next (resetEvent s)
  else if p.cmdValid then acceptCommand p.commandWord s
  else .next (idleCycle s)

end Sys2Proof.Machine
end

