-- ==== Sys2Proof/Machine/Step.lean ====
section
/-! DEFINITION. The step of the machine, and the placing of a command where the next step reads it. -/

namespace Sys2Proof.Machine

/-- One step is one clock cycle (spec/30_encoding.md R53; notes/assumptions/7.md) on the pins the host presents next. -/
def step (s : State) : Host.Outcome State Fault Refusal :=
  clockCycle s.sampledPins s.endCycle

/-- `s` with the command of the table word `w` presented in the very next cycle, before everything the host had still to
present (notes/assumptions/4.md). -/
def State.withFetchWord (s : State) (_nbits w : Nat) : State := s.presentTableWord w

end Sys2Proof.Machine
end

