-- ==== Sys2Proof/Machine/Transaction.lean ====
section
/-! DEFINITION. The transaction-level machine: the clock dropped (spec/30_encoding.md R55), and the sequence operations
(spec/44_driver.md R115 to R118). -/

namespace Sys2Proof.Machine

/-- What the engine has seen: a reset event or an accepted command. Idle cycles are not events (R55). -/
inductive Event where
  /-- `Reset`. -/
  | reset
  /-- `Cmd(dir, data)`. -/
  | cmd (i : Instr)
  deriving DecidableEq, Repr

/-- `exec : State -> Event -> State x Option Byte` of R55. -/
def execEvent (e : Engine) : Event → Engine × Option Symbol
  | .reset => (Engine.fresh, none)
  | .cmd i => ((processSymbol e (operand i)).1, some (processSymbol e (operand i)).2)

/-- An event list from a state: the state after it and the outputs of its commands, in order (R34, R55). -/
def runEvents (e : Engine) : List Event → Engine × List Symbol
  | [] => (e, [])
  | ev :: rest =>
    let r := execEvent e ev
    let tail := runEvents r.1 rest
    (tail.1, r.2.toList ++ tail.2)

/-- The event of a cycle, if it is one: reset wins, an idle cycle is none (R53, R54). -/
def Pins.event (p : Pins) : Option Event :=
  if p.rst then some .reset
  else if p.cmdValid then some (.cmd (decode p.commandWord))
  else none

/-- The events of a list of cycles (R55). -/
def eventsOf (ps : List Pins) : List Event := ps.filterMap Pins.event

/-- `encrypt(P)`: one ENC per element, in order; the state after it and the outputs (R115). -/
def encrypt (e : Engine) (p : List Symbol) : Engine × List Symbol :=
  runEvents e (p.map (fun d => .cmd (.enc d)))

/-- `decrypt(C)`: one DEC per element, in order (R115). -/
def decrypt (e : Engine) (c : List Symbol) : Engine × List Symbol :=
  runEvents e (c.map (fun d => .cmd (.dec d)))

/-- The cycle that presents a command. -/
def Pins.presenting (i : Instr) : Pins := Pins.command (encode i)

end Sys2Proof.Machine
end

