-- ==== Sys2Proof/Machine/Program.lean ====
section
/-! DEFINITION. The assembler notation: what each line presents to the engine (spec/30_encoding.md R60 to R62). -/

namespace Sys2Proof.Machine

/-- The operand byte of a well-formed `imm8` (R60). -/
def immByte (imm : Imm8) : Symbol := BitVec.ofNat 8 imm.value

/-- The clock cycles of a line (R60, R61). -/
def expandLine : Line → List Pins
  | .enc imm => [Pins.presenting (.enc (immByte imm))]
  | .dec imm => [Pins.presenting (.dec (immByte imm))]
  | .rst => [Pins.reset]
  | .idle n => List.replicate n Pins.idle
  | .encs imms => imms.map (fun imm => Pins.presenting (.enc (immByte imm)))
  | .decs imms => imms.map (fun imm => Pins.presenting (.dec (immByte imm)))
  | .ksb => [Pins.presenting (.enc 0x00#8)]

/-- A program is its lines from top to bottom: there are no labels and no branches (R60; spec/44_driver.md R120). -/
def expandProgram (lines : List Line) : List Pins := lines.flatMap expandLine

/-- The command word a listing shows for a cycle; `none` stands for `---` (R62). -/
def Pins.listed (p : Pins) : Option CommandWord :=
  if p.accepts then some p.commandWord else none

end Sys2Proof.Machine
end

