-- ==== Sys2Proof/Machine/System.lean ====
section
/-! DEFINITION. Several engines that share nothing (spec/10_state.md R24; spec/60_exceptions.md R141), so that the
two-engine programs of the spec can be written (spec/30_encoding.md R61). -/

namespace Sys2Proof.Machine

/-- Engine number `n` of the system takes one step; no other engine is read or written (R24; notes/assumptions/8.md). A
number that names no engine is for nobody, and nothing happens. -/
def stepMember : Nat → List State → Host.Outcome (List State) Fault Refusal
  | _, [] => .next []
  | 0, s :: rest =>
    match step s with
    | .next t => .next (t :: rest)
    | .fault f => .fault f
    | .refused r => .refused r
  | n + 1, s :: rest =>
    match stepMember n rest with
    | .next ts => .next (s :: ts)
    | .fault f => .fault f
    | .refused r => .refused r

/-- The host of engine `n` presents further cycles (R61, an engine's name before a line). -/
def presentAt (n : Nat) (ps : List Pins) (sys : List State) : List State :=
  sys.modify n (fun s => s.withPending (s.pending ++ ps))

/-- Each engine is given the lines of the program that name it, in order. -/
def loadProgram (program : List PlacedLine) (sys : List State) : List State :=
  program.foldl (fun acc l => presentAt l.engine (expandLine l.line) acc) sys

end Sys2Proof.Machine
end

