-- ==== Sys2Proof/Safety.lean ====
section
/-! DEFINITION. What the claims speak of: a run of several steps, what a safe run keeps, and the spec's closed formulas
that the machine is compared with. -/

namespace Sys2Proof.Machine

/-- `n` steps, up to the first that has no next state. -/
def steps : Nat → State → Host.Outcome State Fault Refusal
  | 0, s => .next s
  | n + 1, s =>
    match step s with
    | .next t => steps n t
    | .fault f => .fault f
    | .refused r => .refused r

/-- A reset event has happened, so commands have their meaning (spec/70_reset_and_hazards.md R153). -/
abbrev Constructed (s : State) : Prop := s.lifecycle = .constructed

/-- What holds of every state a run of the hardware reaches: it was reset, its registers are all zero
(spec/70_reset_and_hazards.md R156), and a value on the output port is the last one the host took. -/
abbrev SafeState (s : State) : Prop :=
  Constructed s ∧ s.engine = Engine.fresh ∧
    (s.out.valid = true → s.taken.getLast? = some s.out.data)

/-- An engine past its reset event, in front of which the host presents the cycles `ps` and has taken nothing yet. -/
def State.facing (s : State) (ps : List Pins) : State :=
  { s with lifecycle := .constructed, pending := ps, taken := [] }

/-- A bit as a 32-bit value. -/
def bitWord (v : Bool) : Word := (BitVec.ofBool v).zeroExtend 32

/-- The packed form of STEP as spec/42_step.md R90 writes it, on the masks of R81 to R83. -/
def packedStep (e : Engine) : Engine :=
  { a := (e.a <<< 1) ||| bitWord (parity (e.k &&& 0x8FC22F85#32))
    b := (e.b <<< 1) |||
      bitWord (xor (parity (e.k &&& 0x8FC22F85#32)) (parity (e.a &&& 0x84C11DB5#32)))
    k := (e.k <<< 1) |||
      bitWord (xor (parity (e.a &&& 0x84C11DB5#32)) (parity (e.b &&& 0xC018C025#32))) }

/-- `popcount(A[31:24]) + popcount(B[31:24])`, the closed form of KS for this hardware (spec/43_keystream.md R103). -/
def windowOnes (a b : Word) : Nat :=
  popcount (a.extractLsb' 24 8) + popcount (b.extractLsb' 24 8)

/-- The state after a command with data byte `d`, written with the spec's closed formulas (spec/44_driver.md R111). -/
def afterCommand (d : Symbol) (s : State) : State :=
  let e := packedStep s.engine
  let v := d ^^^ BitVec.ofNat 8 (windowOnes e.a e.b)
  { s with engine := e, out := { valid := true, data := v }, taken := s.taken ++ [v] }

end Sys2Proof.Machine
end

