-- ==== Sys2Proof/Certificates/Slice0/Obligations.lean ====
section
/-! DEFINITION. The statements for the provers. Each docstring names the rule of spec/ it formalises; a start state other
than the reset state is the model's test-only argument (spec/44_driver.md R123), so what is said of every state is said
of the functions, and of the hardware only from its reset state. -/

open Sys2Proof Sys2Proof.Machine

/-! ### The command word -/

/-- R56, R63: words written out from the encoding, lowest and highest of each command (vectors V-DEC-1 to V-DEC-8). -/
def Obligations.SpecWordsDecode : Prop :=
  decode 0b000000000#9 = .enc 0x00#8 ∧ decode 0b001000001#9 = .enc 0x41#8 ∧
  decode 0b011111111#9 = .enc 0xFF#8 ∧ decode 0b010101010#9 = .enc 0xAA#8 ∧
  decode 0b100000000#9 = .dec 0x00#8 ∧ decode 0b101000001#9 = .dec 0x41#8 ∧
  decode 0b111111111#9 = .dec 0xFF#8 ∧ decode 0b101010101#9 = .dec 0x55#8

/-- R63, R58: the decoder reads `cw[8]` and `cw[7:0]` and rejects nothing, and decoding and encoding are inverse to each
other, for every command and every word; every command is well formed. -/
def Obligations.DecodeAndEncodeAreInverse : Prop :=
  (∀ i : Instr, decode (encode i) = i ∧ i.wellFormed = true) ∧
  (∀ w : CommandWord, encode (decode w) = w ∧
    decode w = if w.getLsbD 8 then .dec (w.extractLsb' 0 8) else .enc (w.extractLsb' 0 8)) ∧
  Function.Bijective decode ∧ Function.Bijective encode

/-- R56: the opcode map has the rule's two rows, and every word selects exactly one of them, the row of the command it
decodes to. -/
def Obligations.EachWordSelectsOneRow : Prop :=
  opcodeRows = [⟨"ENC", 0x000#9, 0x100#9⟩, ⟨"DEC", 0x100#9, 0x100#9⟩] ∧
  ∀ w : CommandWord,
    rowOf (decode w) ∈ opcodeRows ∧ (rowOf (decode w)).selects w = true ∧
    ∀ r ∈ opcodeRows, r.selects w = true → r = rowOf (decode w)

/-- R60: the word of `ENC imm8` is `0x000 | imm8`, of `DEC imm8` `0x100 | imm8`. -/
def Obligations.EncodingIsOrOfOperand : Prop :=
  ∀ d : Symbol, encode (.enc d) = 0x000#9 ||| d.zeroExtend 9 ∧
    encode (.dec d) = 0x100#9 ||| d.zeroExtend 9

/-- Bits numbered as the opcode table numbers them are a command exactly when nothing stands above `cw[8]`, and then they
are read as that word (the rejection is the model's, notes/assumptions/4.md). -/
def Obligations.TableWordReading : Prop :=
  ∀ nbits w : Nat, decodeTableWord nbits w =
    if w < 512 then some (decode (BitVec.ofNat 9 w)) else none

/-! ### One clock cycle -/

/-- R53: in a cycle without reset that presents a command, a step is the command's meaning; the host has moved on. -/
def Obligations.StepRunsTheDecodedCommand : Prop :=
  (∀ (s : State) (rest : List Pins) (dir : Bool) (d : Symbol),
    step { s with lifecycle := .constructed, pending := ⟨false, true, dir, d⟩ :: rest } =
      exec (decode (CommandWord.make dir d))
        { s with lifecycle := .constructed, pending := rest }) ∧
  (∀ (s : State) (rest : List Pins) (i : Instr),
    step { s with lifecycle := .constructed, pending := Pins.presenting i :: rest } =
      exec i { s with lifecycle := .constructed, pending := rest })

/-- After R53: exactly one of three cases applies in a clock cycle of an engine that has been reset, and it fixes
out_valid and the registers after it: reset, a command (STEP and KS in closed form), idle. R53 leaves `out_data` open where
out_valid is 0; that it is there `Config.freeOutData s.draws`, a value nothing constrains, and that `draws` goes up by one,
is the MODEL'S choice (notes/assumptions/1.md), as are `lifecycle` (notes/assumptions/3.md) and the host's lists
(notes/assumptions/2.md). -/
def Obligations.ClockCycleHasThreeCases : Prop :=
  ∀ (s : State) (rest : List Pins) (rst valid dir : Bool) (d : Symbol),
    let s0 : State := { s with lifecycle := .constructed, pending := rest }
    step { s with lifecycle := .constructed, pending := ⟨rst, valid, dir, d⟩ :: rest } =
      if rst then
        .next { s0 with
          engine := ⟨0#32, 0#32, 0#32⟩, out := ⟨false, Config.freeOutData s.draws⟩, draws := s.draws + 1 }
      else if valid then .next (afterCommand d s0)
      else .next { s0 with out := ⟨false, Config.freeOutData s.draws⟩, draws := s.draws + 1 }

/-- A table word that decodes is what the very next step runs once withFetchWord has placed it (the placing is the
model's, notes/assumptions/4.md). -/
def Obligations.PlacedWordRunsNext : Prop :=
  ∀ (s : State) (nbits w : Nat) (i : Instr), Constructed s → decodeTableWord nbits w = some i →
    step (s.withFetchWord nbits w) = exec i s

/-- After R134, R150, R151: a cycle with `rst` = 1, on any state, whatever else is on the pins: registers zero,
out_valid 0, the command discarded, and nothing else of the engine. R151 leaves `out_data` unspecified; that it is
`Config.freeOutData s.draws` and that `draws` goes up by one is the MODEL'S choice (notes/assumptions/1.md), as are the
`lifecycle` field (notes/assumptions/3.md) and the host's list of cycles (notes/assumptions/2.md). -/
def Obligations.ResetCycleWins : Prop :=
  ∀ (s : State) (rest : List Pins) (v dir : Bool) (d : Symbol),
    step { s with pending := ⟨true, v, dir, d⟩ :: rest } =
      .next { s with
        engine := ⟨0#32, 0#32, 0#32⟩
        lifecycle := .constructed
        pending := rest
        out := ⟨false, Config.freeOutData s.draws⟩
        draws := s.draws + 1 }

/-- The MODEL'S choice (notes/assumptions/2.md): a host with no listed cycle left leaves the engine idle; so is the value
of `out_data` in that cycle (notes/assumptions/1.md). -/
def Obligations.NoListedCycleIsIdle : Prop :=
  ∀ s : State, step { s with pending := [] } =
    .next { s with
      pending := []
      out := ⟨false, Config.freeOutData s.draws⟩
      draws := s.draws + 1 }

/-- R132: a command accepted before the first reset event is refused, not a fault; and that is the only refused step. -/
def Obligations.OnlyCommandsBeforeResetAreRefused : Prop :=
  ∀ (s : State) (r : Refusal), step s = .refused r ↔
    r = .commandBeforeReset ∧ s.lifecycle = .poweredOn ∧
      ∃ (dir : Bool) (d : Symbol) (rest : List Pins), s.pending = ⟨false, true, dir, d⟩ :: rest

/-- R130: for every state and every command there is a next state with an output, and once the engine has been reset
every step, whatever the host presents, has a next state too. -/
def Obligations.NothingFaultsOrIsRefusedOnceReset : Prop :=
  (∀ (i : Instr) (s : State), ∃ t, exec i s = .next t ∧ t.out.valid = true) ∧
  (∀ s : State, Constructed s → ∃ t, step s = .next t ∧ Constructed t)

/-- R152, R153, R163: from power-on, with any register contents and any output pins, one reset cycle leaves the registers,
the life cycle and the output port's `valid` of the reset state, and a command presented in the very next cycle runs. -/
def Obligations.ResetThenCommandFromPowerOn : Prop :=
  ∀ (e : Engine) (o : OutPort) (i : Instr) (rest : List Pins),
    ∃ t u, step (State.powerOn e o (Pins.reset :: Pins.presenting i :: rest)) = .next t ∧
      t.engine = State.reset.engine ∧ t.lifecycle = State.reset.lifecycle ∧
      t.out.valid = State.reset.out.valid ∧ t.taken = State.reset.taken ∧
      step t = .next u ∧ u.engine = ⟨0#32, 0#32, 0#32⟩ ∧ u.out = ⟨true, operand i⟩ ∧ u.pending = rest

/-! ### Register bank -/

/-- R70, R71: a cell read is bit `i` of the packed view; a cell write makes that cell `v` and leaves every other cell of
every register; packed, it is `(R & ~(1 << i)) | (v << i)`. -/
def Obligations.CellReadAndWrite : Prop :=
  (∀ (e : Engine) (n : RegName) (i : CellIndex),
    bitWord (e.readCell n i) = (e.get n >>> i.val) &&& 1#32) ∧
  (∀ (e : Engine) (n m : RegName) (i j : CellIndex) (v : Bool),
    (e.writeCell n i v).readCell m j = if m = n ∧ j = i then v else e.readCell m j) ∧
  (∀ (e : Engine) (n : RegName) (i : CellIndex) (v : Bool),
    (e.writeCell n i v).get n = (e.get n &&& ~~~(1#32 <<< i.val)) ||| (bitWord v <<< i.val))

/-- R72: SHIFT moves cell `i - 1` into cell `i`, loses old cell 31 and shows the vacant cell 0 as 0; packed, it is
`(R << 1) mod 2^32`. It does so to all three registers at once. -/
def Obligations.ShiftMovesEveryCellByOne : Prop :=
  ∀ (e : Engine) (n : RegName),
    (e.shiftAll.readCell n 0 = false) ∧
    (∀ i : Fin 31, e.shiftAll.readCell n i.succ = e.readCell n i.castSucc) ∧
    (e.shiftAll.get n).toNat = ((e.get n).toNat * 2) % 2 ^ 32

/-- R74: shift and fill in packed form and by cells, and after 32 of them no cell of the original register remains. -/
def Obligations.ShiftAndFillForgetsTheRegister : Prop :=
  (∀ (r : Word) (v : Bool), cellWrite (shift r) 0 v = (r <<< 1) ||| bitWord v) ∧
  (∀ (r : Word) (v : Bool), cellRead (cellWrite (shift r) 0 v) 0 = v ∧
    ∀ i : Fin 31, cellRead (cellWrite (shift r) 0 v) i.succ = cellRead r i.castSucc) ∧
  (∀ (r r' : Word) (fill : Fin 32 → Bool),
    (List.ofFn fill).foldl (fun x v => cellWrite (shift x) 0 v) r =
      (List.ofFn fill).foldl (fun x v => cellWrite (shift x) 0 v) r')

/-! ### Feedback engine -/

/-- After the formula of R80 and the masks of R81 to R83: for any list of taps the feedback bit is the sum of the tapped
cells modulo 2; where no tap is listed twice it is the parity under the mask of the tap set; and for the three tap sets the
masks are those of R81 to R83. (That the bits are taken before the shift is StepIsThePackedForm and
StepShiftsAndCrossCouples.) -/
def Obligations.FeedbackIsSumModTwo : Prop :=
  (∀ (taps : List CellIndex) (r : Word), tapParity taps r =
    decide ((taps.map (fun i => (cellRead r i).toNat)).sum % 2 = 1)) ∧
  (∀ (taps : List CellIndex) (r : Word), taps.Nodup → tapParity taps r = parity (r &&& tapMask taps)) ∧
  tapMask Config.tapsK = 0x8FC22F85#32 ∧ tapMask Config.tapsA = 0x84C11DB5#32 ∧
  tapMask Config.tapsB = 0xC018C025#32

/-- R81, R82, R83: each feedback bit is the xor of the cells the rule lists, and the parity under the rule's mask. -/
def Obligations.FeedbackTapFormulas : Prop :=
  (∀ k : Word, fbK k = parity (k &&& 0x8FC22F85#32) ∧
    fbK k = (k[31] ^^ k[27] ^^ k[26] ^^ k[25] ^^ k[24] ^^ k[23] ^^ k[22] ^^ k[17] ^^
      k[13] ^^ k[11] ^^ k[10] ^^ k[9] ^^ k[8] ^^ k[7] ^^ k[2] ^^ k[0])) ∧
  (∀ a : Word, fbA a = parity (a &&& 0x84C11DB5#32) ∧
    fbA a = (a[31] ^^ a[26] ^^ a[23] ^^ a[22] ^^ a[16] ^^ a[12] ^^ a[11] ^^
      a[10] ^^ a[8] ^^ a[7] ^^ a[5] ^^ a[4] ^^ a[2] ^^ a[0])) ∧
  (∀ b : Word, fbB b = parity (b &&& 0xC018C025#32) ∧
    fbB b = (b[31] ^^ b[30] ^^ b[20] ^^ b[19] ^^ b[15] ^^ b[14] ^^ b[5] ^^ b[2] ^^ b[0]))

/-- R86, laws 1 to 5, for each of the three feedback functions with its mask. -/
def Obligations.FeedbackLaws : Prop :=
  ∀ p ∈ [(fbK, 0x8FC22F85#32, false), (fbA, 0x84C11DB5#32, false), (fbB, 0xC018C025#32, true)],
    p.1 0#32 = false ∧
    (∀ x y : Word, p.1 (x ^^^ y) = xor (p.1 x) (p.1 y)) ∧
    (∀ x : Word, p.1 x = p.1 (x &&& p.2.1)) ∧
    p.1 0xFFFFFFFF#32 = p.2.2 ∧
    p.1 0x00000005#32 = false ∧
    (∀ i ∈ [0, 2, 31], p.1 (1#32 <<< i) = true) ∧
    (∀ i ∈ [1, 3, 6, 18, 21, 28, 29], p.1 (1#32 <<< i) = false)

/-! ### Step function -/

/-- R90: STEP is the packed form of the rule, all right-hand sides being old values. -/
def Obligations.StepIsThePackedForm : Prop := ∀ e : Engine, stepEngine e = packedStep e

/-- R91, R92: after STEP cell `i` of each register is the old cell `i - 1`, and the three cells 0 are the cross-coupled
feedback bits of the registers before the step. -/
def Obligations.StepShiftsAndCrossCouples : Prop :=
  ∀ e : Engine,
    (stepEngine e).readCell .K 0 = xor (fbA e.a) (fbB e.b) ∧
    (stepEngine e).readCell .A 0 = fbK e.k ∧
    (stepEngine e).readCell .B 0 = xor (fbK e.k) (fbA e.a) ∧
    ∀ (n : RegName) (i : Fin 31), (stepEngine e).readCell n i.succ = e.readCell n i.castSucc

/-- R95: the all-zero state is a fixed point of STEP. -/
def Obligations.ZeroIsFixedByStep : Prop :=
  stepEngine ⟨0#32, 0#32, 0#32⟩ = ⟨0#32, 0#32, 0#32⟩ ∧
  fbK 0#32 = false ∧ fbA 0#32 = false ∧ fbB 0#32 = false

/-- R96 law 2: STEP is linear over xor, register by register. -/
def Obligations.StepIsLinear : Prop :=
  ∀ s t : Engine, stepEngine ⟨s.a ^^^ t.a, s.b ^^^ t.b, s.k ^^^ t.k⟩ =
    ⟨(stepEngine s).a ^^^ (stepEngine t).a, (stepEngine s).b ^^^ (stepEngine t).b,
      (stepEngine s).k ^^^ (stepEngine t).k⟩

/-- R96 law 3: STEP is a bijection with the inverse the rule gives, and only the zero state steps to zero. -/
def Obligations.StepIsInvertible : Prop :=
  (∀ e : Engine, unstepEngine (stepEngine e) = e ∧ stepEngine (unstepEngine e) = e) ∧
  (∀ e : Engine,
    let fK := cellRead e.a 0
    let fA := xor (cellRead e.a 0) (cellRead e.b 0)
    let fB := xor (cellRead e.k 0) (xor (cellRead e.a 0) (cellRead e.b 0))
    (unstepEngine e).readCell .K 31 = xor fK (parity ((e.k >>> 1) &&& 0x0FC22F85#32)) ∧
    (unstepEngine e).readCell .A 31 = xor fA (parity ((e.a >>> 1) &&& 0x04C11DB5#32)) ∧
    (unstepEngine e).readCell .B 31 = xor fB (parity ((e.b >>> 1) &&& 0x4018C025#32)) ∧
    ∀ (n : RegName) (i : Fin 31), (unstepEngine e).readCell n i.castSucc = e.readCell n i.succ) ∧
  (∀ e : Engine, stepEngine e = Engine.fresh ↔ e = Engine.fresh)

/-- R96 law 4, R107 law 4: `n` steps move a bit from cell `i` to cell `i + n` of its register, as long as there is such a
cell. -/
def Obligations.StepsCarryCellsUpward : Prop :=
  ∀ (n : Nat) (e : Engine) (r : RegName) (i j : CellIndex), j.val = i.val + n →
    (stepsEngine n e).readCell r j = e.readCell r i

/-- R96 law 4: from a state whose only set cell is A[0] the first keystream byte other than zero is that of step 24, and
it is 1 (trace V-STEP-9). -/
def Obligations.SeedReachesKeystreamAtStep24 : Prop :=
  let e : Engine := ⟨1#32, 0#32, 0#32⟩
  (∀ n < 24, keystream (stepsEngine n e).a (stepsEngine n e).b = 0x00#8) ∧
  keystream (stepsEngine 24 e).a (stepsEngine 24 e).b = 0x01#8

/-! ### Keystream generator -/

/-- R103: for this hardware KS is the number of set window cells, at most 16; its bits 7 to 5 are 0, and its bit 4 is 1
only when all 16 window cells are 1, and then its bits 3 to 0 are 0. -/
def Obligations.KeystreamCountsWindowOnes : Prop :=
  ∀ a b : Word,
    (keystream a b).toNat = windowOnes a b ∧ (keystream a b).toNat ≤ 16 ∧
    (keystream a b).extractLsb' 5 3 = 0#3 ∧
    ((keystream a b)[4] = true →
      a.extractLsb' 24 8 = 0xFF#8 ∧ b.extractLsb' 24 8 = 0xFF#8 ∧
        (keystream a b).extractLsb' 0 4 = 0#4)

/-- R104: the closed form for any table. -/
def Obligations.KeystreamOverAnyTable : Prop :=
  ∀ (t : Symbol → Symbol) (a b : Word),
    windowOnes a b ≤ 16 ∧ windowSum t a b ≤ 4080 ∧
    (keystreamOver t a b).toNat =
      ((16 - windowOnes a b) * (t 0#8).toNat + windowOnes a b * (t 1#8).toNat) % 256

/-- R30: entries 2 to 255 of the table are never read: two tables that agree at 0 and 1 give the same keystream. -/
def Obligations.KeystreamReadsEntriesZeroAndOne : Prop :=
  ∀ (t t' : Symbol → Symbol) (a b : Word), t 0#8 = t' 0#8 → t 1#8 = t' 1#8 →
    keystreamOver t a b = keystreamOver t' a b

/-- R107 laws 1 to 3: KS sees only the 16 window cells, and those in any order. -/
def Obligations.KeystreamSeesWindowInAnyOrder : Prop :=
  (∀ a b a' b' : Word, (windowCells a b).Perm (windowCells a' b') → keystream a b = keystream a' b') ∧
  (∀ a b : Word, keystream a b = keystream b a) ∧
  (∀ a b : Word, keystream a b = keystream (a &&& 0xFF000000#32) (b &&& 0xFF000000#32))

/-- R105: an 8-bit accumulator that wraps after every addition gives the same byte, for any table. -/
def Obligations.WrappingAccumulatorAgrees : Prop :=
  ∀ (t : Symbol → Symbol) (a b : Word), keystreamWrapping t a b = keystreamOver t a b

/-! ### The two commands -/

/-- R111: `ENC imm8` has format C with `cw[8]` = 0 and completes on every state: the registers are stepped, out_data is
`d xor ks` with `ks` of the new registers, out_valid is 1, and nothing else of the state changes. -/
def Obligations.EncResult : Prop :=
  ∀ (d : Symbol) (s : State), decode (0#1 ++ d) = .enc d ∧
    exec (.enc d) s = .next (afterCommand d s)

/-- R112: `DEC imm8` has format C with `cw[8]` = 1 and completes on every state with the result and next state of
`ENC imm8`. -/
def Obligations.DecResult : Prop :=
  ∀ (d : Symbol) (s : State), decode (1#1 ++ d) = .dec d ∧
    exec (.dec d) s = .next (afterCommand d s) ∧ exec (.dec d) s = exec (.enc d) s

/-- The frame of ENC and DEC: whatever the command, only the three registers, the output port and the host's list of
taken values change; the list grows by the value on the port. (The table is a constant, R20, so there is no memory to
change.) -/
def Obligations.CommandFrame : Prop :=
  ∀ (i : Instr) (s t : State), exec i s = .next t →
    t.lifecycle = s.lifecycle ∧ t.pending = s.pending ∧ t.draws = s.draws ∧
    t.out.valid = true ∧ t.taken = s.taken ++ [t.out.data]

/-- R113: the state after a command does not depend on its direction or its data, and the output is the data xor a byte
that does not depend on them. -/
def Obligations.NextStateIgnoresTheCommand : Prop :=
  ∀ s : State, ∃ ks : Symbol, ks = keystream (packedStep s.engine).a (packedStep s.engine).b ∧
    ∀ i : Instr, ∃ t, exec i s = .next t ∧ t.engine = packedStep s.engine ∧
      t.out.data = operand i ^^^ ks

/-- R114: the xor is bitwise, it is its own inverse, and bits 7 to 5 of a symbol are never changed. -/
def Obligations.OnlyLowFiveBitsChange : Prop :=
  ∀ (i : Instr) (s : State), ∃ (t : State) (ks : Symbol), exec i s = .next t ∧
    ks = keystream t.engine.a t.engine.b ∧
    (∀ n : Fin 8, t.out.data.getLsbD n = xor ((operand i).getLsbD n) (ks.getLsbD n)) ∧
    t.out.data ^^^ ks = operand i ∧
    t.out.data.extractLsb' 5 3 = (operand i).extractLsb' 5 3

/-! ### Runs -/

/-- R55: the clock can be dropped. The events of the transaction machine are as the rule gives them (STEP and KS in closed
form), and for every list of clock cycles the machine's registers and outputs after them are those of the transaction
machine on the events among them. -/
def Obligations.ClockedMachineRefinesTransactions : Prop :=
  (∀ (e : Engine) (i : Instr),
    execEvent e .reset = (⟨0#32, 0#32, 0#32⟩, none) ∧
    execEvent e (.cmd i) = (packedStep e, some (operand i ^^^
      BitVec.ofNat 8 (windowOnes (packedStep e).a (packedStep e).b)))) ∧
  ∀ (s : State) (ps rest : List Pins), Constructed s →
    ∃ t, steps ps.length (s.withPending (ps ++ rest)) = .next t ∧
      t.engine = (runEvents s.engine (eventsOf ps)).1 ∧
      t.taken = s.taken ++ (runEvents s.engine (eventsOf ps)).2 ∧
      t.pending = rest ∧ Constructed t

/-- After R54: an idle cycle leaves the registers and has out_valid 0, whatever stands on `cmd_dir` and `cmd_data`, and
idle cycles, any number of them anywhere, have no effect on the registers or on any output: taking them out of the host's
cycles gives the same registers and the same outputs. R53 leaves `out_data` of an idle cycle unspecified; that it is
`Config.freeOutData s.draws` and that `draws` goes up by one is the MODEL'S choice (notes/assumptions/1.md), as are
`lifecycle` (notes/assumptions/3.md) and the host's lists (notes/assumptions/2.md). -/
def Obligations.IdleCyclesCanBeDropped : Prop :=
  (∀ (s : State) (rest : List Pins) (dir : Bool) (d : Symbol),
    step { s with pending := ⟨false, false, dir, d⟩ :: rest } =
      .next { s with
        pending := rest
        out := ⟨false, Config.freeOutData s.draws⟩
        draws := s.draws + 1 }) ∧
  ∀ (s : State) (ps : List Pins), Constructed s →
    ∃ t u, steps ps.length (s.withPending ps) = .next t ∧
      steps (ps.filter (fun p => p.rst || p.cmdValid)).length
        (s.withPending (ps.filter (fun p => p.rst || p.cmdValid))) = .next u ∧
      t.engine = u.engine ∧ t.taken = u.taken ∧ t.lifecycle = u.lifecycle

/-- R94, R113: after n commands, of either direction and with any data, the registers are `STEP^n` of where they began,
and output number `n` is its command's byte xor a keystream byte that depends on `n` alone. -/
def Obligations.StateAndKeystreamDependOnCount : Prop :=
  ∀ (s : State) (is : List Instr),
    ∃ t, steps is.length (s.facing (is.map Pins.presenting)) = .next t ∧
      t.engine = stepsEngine is.length s.engine ∧
      ∀ n : Nat, t.taken[n]? = (is[n]?).map (fun i => operand i ^^^
        keystream (stepsEngine (n + 1) s.engine).a (stepsEngine (n + 1) s.engine).b)

/-- R115, R118: encrypt and decrypt give as many outputs as inputs and advance the registers by the length; on the empty
sequence they change nothing; and they are what the machine does on the commands, one by one. -/
def Obligations.SequenceOperations : Prop :=
  ∀ (s : State) (p : List Symbol),
    (encrypt s.engine p).2.length = p.length ∧ (decrypt s.engine p).2.length = p.length ∧
    (encrypt s.engine p).1 = stepsEngine p.length s.engine ∧
    (decrypt s.engine p).1 = stepsEngine p.length s.engine ∧
    encrypt s.engine [] = (s.engine, []) ∧ decrypt s.engine [] = (s.engine, []) ∧
    (∃ t, steps p.length (s.facing (p.map (fun d => Pins.presenting (.enc d)))) = .next t ∧
      (t.engine, t.taken) = encrypt s.engine p) ∧
    (∃ t, steps p.length (s.facing (p.map (fun d => Pins.presenting (.dec d)))) = .next t ∧
      (t.engine, t.taken) = decrypt s.engine p)

/-- R116: the round trip. Two engines in the same state; the outputs of any byte sequence on the first, given as commands
to the second, come back as the sequence, and the engines are again in equal states. It holds for any of the two
directions on either side, so also with encrypt and decrypt exchanged. -/
def Obligations.RoundTripOnTwoEngines : Prop :=
  ∀ (s1 s2 : State) (dir1 dir2 : Bool) (p : List Symbol),
    ∃ t1 t2,
      steps p.length (s1.facing (p.map (fun d => ⟨false, true, dir1, d⟩))) = .next t1 ∧
      steps t1.taken.length
        ({ s2 with engine := s1.engine }.facing (t1.taken.map (fun d => ⟨false, true, dir2, d⟩))) = .next t2 ∧
      t2.taken = p ∧ t1.engine = stepsEngine p.length s1.engine ∧ t2.engine = t1.engine

/-- R117: state carries across calls. Two calls with idle cycles between them give the outputs and the end state of one
call on the joined sequence. -/
def Obligations.StateCarriesAcrossCalls : Prop :=
  ∀ (s : State) (p q : List Symbol) (idles : Nat),
    (encrypt s.engine (p ++ q)).2 =
      (encrypt s.engine p).2 ++ (encrypt (encrypt s.engine p).1 q).2 ∧
    ∃ t, steps (p.length + (idles + q.length))
        (s.facing (p.map (fun d => Pins.presenting (.enc d)) ++ (List.replicate idles Pins.idle ++
          q.map (fun d => Pins.presenting (.enc d))))) = .next t ∧
      (t.engine, t.taken) = encrypt s.engine (p ++ q)

/-- R23, R119: two engines with equal registers, given the same cycles, are indistinguishable from then on: equal
registers and, in every cycle, equal `out_valid` and, where it is 1, equal `out_data`. (`out`, `taken` and `draws`, what
the host has seen before and the model's counter, may differ.) -/
def Obligations.EqualRegistersAreIndistinguishable : Prop :=
  ∀ (s : State) (o : OutPort) (seen : List Symbol) (draws n : Nat), Constructed s →
    ∃ t u, steps (n + 1) s = .next t ∧
      steps (n + 1) { s with out := o, taken := seen, draws := draws } = .next u ∧
      t.engine = u.engine ∧ t.out.valid = u.out.valid ∧
      (t.out.valid = true → t.out.data = u.out.data) ∧
      ∃ new : List Symbol, t.taken = s.taken ++ new ∧ u.taken = seen ++ new

/-! ### What is reachable -/

/-- R14, R150: the reset state has all registers zero, and it is a safe state. -/
def Obligations.ResetStateIsSafe : Prop :=
  State.reset.engine = ⟨0#32, 0#32, 0#32⟩ ∧ State.reset.out.valid = false ∧ SafeState State.reset

/-- R156: whatever the host presents, a step from a safe state (reset since power-on, registers all zero, the output port
showing what the host took last) has a next state and that is a safe state. -/
def Obligations.EveryStepKeepsSafeState : Prop :=
  ∀ s : State, SafeState s → ∃ t, step s = .next t ∧ SafeState t

/-- R122: from a safe state, whatever the host presents and for however long, every accepted command outputs its own data
byte: the outputs are the data bytes of the accepted commands, in order. -/
def Obligations.OutputEqualsInputFromReset : Prop :=
  ∀ (s : State) (ps : List Pins), SafeState s →
    ∃ t, steps ps.length (s.withPending ps) = .next t ∧ SafeState t ∧
      t.taken = s.taken ++ ps.filterMap (fun p =>
        if p.rst = false ∧ p.cmdValid = true then some p.cmdData else none)

/-- R160: a reset between commands sets the keystream position back to the start: from any state whatever, also before
the first reset, the outputs of the commands after a reset cycle are those of a fresh engine. -/
def Obligations.ResetRestartsTheKeystream : Prop :=
  ∀ (s : State) (is : List Instr),
    ∃ t, steps (is.length + 1) { s with pending := Pins.reset :: is.map Pins.presenting, taken := [] } = .next t ∧
      (t.engine, t.taken) = runEvents ⟨0#32, 0#32, 0#32⟩ (is.map .cmd)

/-- R158: the statefulness hazard on the rule's own start state, which the hardware cannot reach: decrypting on the engine
that has just encrypted, without a reset, gives other bytes than the plaintext, and no signal (program P4). -/
def Obligations.StatefulnessHazardExample : Prop :=
  let e : Engine := ⟨0xDEADBEEF#32, 0x12345678#32, 0xA5A5A5A5#32⟩
  let p : List Symbol := [0x41#8, 0x42#8, 0x43#8, 0x00#8, 0xFF#8]
  (encrypt e p).2 = [0x49#8, 0x45#8, 0x4A#8, 0x08#8, 0xF7#8] ∧
  (decrypt (encrypt e p).1 (encrypt e p).2).2 = [0x40#8, 0x42#8, 0x42#8, 0x00#8, 0xFE#8]

/-! ### Programs and several engines -/

/-- R61: what the pseudo-instructions stand for. -/
def Obligations.PseudoInstructionsExpand : Prop :=
  (∀ imms : List Imm8,
    expandLine (.encs imms) = imms.flatMap (fun imm => expandLine (.enc imm)) ∧
    expandLine (.decs imms) = imms.flatMap (fun imm => expandLine (.dec imm))) ∧
  expandLine .ksb = expandLine (.enc (.number 0)) ∧
  (∀ n : Nat, (expandLine (.idle n)).length = n ∧
    ∀ p ∈ expandLine (.idle n), p.rst = false ∧ p.cmdValid = false) ∧
  (∃ p, expandLine .rst = [p] ∧ p.rst = true)

/-- R57, R61: the output of `KSB` is the keystream byte itself. -/
def Obligations.KsbOutputsTheKeystreamByte : Prop :=
  ∀ (s : State) (rest : List Pins),
    ∃ t, step (s.facing (expandLine .ksb ++ rest)) = .next t ∧
      t.out = ⟨true, keystream t.engine.a t.engine.b⟩ ∧ t.engine = packedStep s.engine

/-- After R24, R141: a step of engine `n` of a system is that engine's own step and reads and writes no other engine. That
one engine steps at a time, while the others' whole states, their pending cycles and output ports included, stand still, is
the MODEL'S choice (notes/assumptions/8.md). -/
def Obligations.EnginesShareNothing : Prop :=
  ∀ (n : Nat) (sys sys' : List State), stepMember n sys = .next sys' →
    sys'.length = sys.length ∧ (∀ m, m ≠ n → sys'[m]? = sys[m]?) ∧
    (∀ s, sys[n]? = some s → ∃ t, step s = .next t ∧ sys'[n]? = some t)
end

