-- ==== Sys2Proof/Laws/State.lean ====
section
/-! SUPPORT. One lemma per field and update of the state, and per register and write of the bank. -/

namespace Sys2Proof.Machine

variable (s : State)

@[simp] theorem withPending_engine (ps : List Pins) : (s.withPending ps).engine = s.engine := rfl
@[simp] theorem withPending_lifecycle (ps : List Pins) : (s.withPending ps).lifecycle = s.lifecycle := rfl
@[simp] theorem withPending_out (ps : List Pins) : (s.withPending ps).out = s.out := rfl
@[simp] theorem withPending_pending (ps : List Pins) : (s.withPending ps).pending = ps := rfl
@[simp] theorem withPending_taken (ps : List Pins) : (s.withPending ps).taken = s.taken := rfl
@[simp] theorem withPending_draws (ps : List Pins) : (s.withPending ps).draws = s.draws := rfl

@[simp] theorem endCycle_engine : (s.endCycle).engine = s.engine := rfl
@[simp] theorem endCycle_lifecycle : (s.endCycle).lifecycle = s.lifecycle := rfl
@[simp] theorem endCycle_out : (s.endCycle).out = s.out := rfl
@[simp] theorem endCycle_pending : (s.endCycle).pending = s.pending.tail := rfl
@[simp] theorem endCycle_taken : (s.endCycle).taken = s.taken := rfl
@[simp] theorem endCycle_draws : (s.endCycle).draws = s.draws := rfl

@[simp] theorem driveNoOutput_engine : (s.driveNoOutput).engine = s.engine := rfl
@[simp] theorem driveNoOutput_lifecycle : (s.driveNoOutput).lifecycle = s.lifecycle := rfl
@[simp] theorem driveNoOutput_out : (s.driveNoOutput).out = { valid := false, data := Config.freeOutData s.draws } := rfl
@[simp] theorem driveNoOutput_pending : (s.driveNoOutput).pending = s.pending := rfl
@[simp] theorem driveNoOutput_taken : (s.driveNoOutput).taken = s.taken := rfl
@[simp] theorem driveNoOutput_draws : (s.driveNoOutput).draws = s.draws + 1 := rfl

@[simp] theorem resetEvent_engine : (resetEvent s).engine = Engine.fresh := rfl
@[simp] theorem resetEvent_lifecycle : (resetEvent s).lifecycle = .constructed := rfl
@[simp] theorem resetEvent_out : (resetEvent s).out = { valid := false, data := Config.freeOutData s.draws } := rfl
@[simp] theorem resetEvent_pending : (resetEvent s).pending = s.pending := rfl
@[simp] theorem resetEvent_taken : (resetEvent s).taken = s.taken := rfl
@[simp] theorem resetEvent_draws : (resetEvent s).draws = s.draws + 1 := rfl

@[simp] theorem idleCycle_engine : (idleCycle s).engine = s.engine := rfl
@[simp] theorem idleCycle_lifecycle : (idleCycle s).lifecycle = s.lifecycle := rfl
@[simp] theorem idleCycle_out : (idleCycle s).out = { valid := false, data := Config.freeOutData s.draws } := rfl
@[simp] theorem idleCycle_pending : (idleCycle s).pending = s.pending := rfl
@[simp] theorem idleCycle_taken : (idleCycle s).taken = s.taken := rfl
@[simp] theorem idleCycle_draws : (idleCycle s).draws = s.draws + 1 := rfl

@[simp] theorem complete_engine (r : Engine × Symbol) : (s.complete r).engine = r.1 := rfl
@[simp] theorem complete_lifecycle (r : Engine × Symbol) : (s.complete r).lifecycle = s.lifecycle := rfl
@[simp] theorem complete_out (r : Engine × Symbol) : (s.complete r).out = { valid := true, data := r.2 } := rfl
@[simp] theorem complete_pending (r : Engine × Symbol) : (s.complete r).pending = s.pending := rfl
@[simp] theorem complete_taken (r : Engine × Symbol) : (s.complete r).taken = s.taken ++ [r.2] := rfl
@[simp] theorem complete_draws (r : Engine × Symbol) : (s.complete r).draws = s.draws := rfl

@[simp] theorem facing_engine (ps : List Pins) : (s.facing ps).engine = s.engine := rfl
@[simp] theorem facing_lifecycle (ps : List Pins) : (s.facing ps).lifecycle = .constructed := rfl
@[simp] theorem facing_out (ps : List Pins) : (s.facing ps).out = s.out := rfl
@[simp] theorem facing_pending (ps : List Pins) : (s.facing ps).pending = ps := rfl
@[simp] theorem facing_taken (ps : List Pins) : (s.facing ps).taken = [] := rfl
@[simp] theorem facing_draws (ps : List Pins) : (s.facing ps).draws = s.draws := rfl

@[simp] theorem withPending_withPending (ps qs : List Pins) :
    (s.withPending ps).withPending qs = s.withPending qs := rfl

@[simp] theorem withPending_self : s.withPending s.pending = s := rfl

@[simp] theorem withPending_sampledPins_cons (p : Pins) (ps : List Pins) :
    (s.withPending (p :: ps)).sampledPins = p := rfl

@[simp] theorem withPending_endCycle_cons (p : Pins) (ps : List Pins) :
    (s.withPending (p :: ps)).endCycle = s.withPending ps := rfl

variable (e : Engine)

@[simp] theorem set_A_a (r : Word) : (e.set .A r).a = r := rfl
@[simp] theorem set_A_b (r : Word) : (e.set .A r).b = e.b := rfl
@[simp] theorem set_A_k (r : Word) : (e.set .A r).k = e.k := rfl
@[simp] theorem set_B_a (r : Word) : (e.set .B r).a = e.a := rfl
@[simp] theorem set_B_b (r : Word) : (e.set .B r).b = r := rfl
@[simp] theorem set_B_k (r : Word) : (e.set .B r).k = e.k := rfl
@[simp] theorem set_K_a (r : Word) : (e.set .K r).a = e.a := rfl
@[simp] theorem set_K_b (r : Word) : (e.set .K r).b = e.b := rfl
@[simp] theorem set_K_k (r : Word) : (e.set .K r).k = r := rfl

@[simp] theorem get_A : e.get .A = e.a := rfl
@[simp] theorem get_B : e.get .B = e.b := rfl
@[simp] theorem get_K : e.get .K = e.k := rfl

@[simp] theorem get_set (n m : RegName) (r : Word) :
    (e.set n r).get m = if m = n then r else e.get m := by
  cases n <;> cases m <;> rfl

@[simp] theorem shiftAll_a : e.shiftAll.a = shift e.a := rfl
@[simp] theorem shiftAll_b : e.shiftAll.b = shift e.b := rfl
@[simp] theorem shiftAll_k : e.shiftAll.k = shift e.k := rfl

theorem shiftAll_get (n : RegName) : e.shiftAll.get n = shift (e.get n) := by
  cases n <;> rfl

/-- Two engines with the same three registers are the same. -/
theorem engine_ext_get {e e' : Engine} (h : ∀ n, e.get n = e'.get n) : e = e' := by
  have ha : e.a = e'.a := h .A
  have hb : e.b = e'.b := h .B
  have hk : e.k = e'.k := h .K
  cases e; cases e'
  simp only [Engine.mk.injEq]
  exact ⟨ha, hb, hk⟩

end Sys2Proof.Machine
end

