-- ==== Sys2Proof/Laws/Bank.lean ====
section
/-! SUPPORT. What each operation of the register bank does, cell by cell; popcount and parity. -/

namespace Sys2Proof.Machine

/-- A register is its 32 cells (spec/10_state.md R15). -/
theorem word_ext_cells {r r' : Word} (h : ∀ i, cellRead r i = cellRead r' i) : r = r' :=
  BitVec.eq_of_getLsbD_eq fun i hi => h ⟨i, hi⟩

/-- Two engines with the same cells are the same. -/
theorem engine_ext_cells {e e' : Engine} (h : ∀ n i, e.readCell n i = e'.readCell n i) : e = e' :=
  engine_ext_get fun n => word_ext_cells (h n)

theorem cellRead_shift (r : Word) (i : CellIndex) :
    cellRead (shift r) i = (decide (0 < i.val) && r.getLsbD (i.val - 1)) := by
  have hi := i.isLt
  rw [cellRead, shift, BitVec.getLsbD_shiftLeft]
  by_cases h0 : i.val = 0
  · simp [h0]
  · have h1 : ¬ i.val < 1 := by omega
    have h2 : 0 < i.val := by omega
    simp only [h1, h2, hi, decide_true, decide_false, Bool.not_false, Bool.true_and]

theorem cellRead_cellWrite (r : Word) (i j : CellIndex) (v : Bool) :
    cellRead (cellWrite r i v) j = if j = i then v else cellRead r j := by
  have hi := i.isLt
  have hj := j.isLt
  by_cases h : j = i
  · subst h
    simp [cellRead, cellWrite]
  · have hne : j.val ≠ i.val := fun e => h (Fin.ext e)
    simp only [cellRead, cellWrite, BitVec.getLsbD_or, BitVec.getLsbD_and, BitVec.getLsbD_not,
      BitVec.getLsbD_shiftLeft, BitVec.getLsbD_one, BitVec.getLsbD_setWidth, BitVec.getLsbD_ofBool, if_neg h]
    by_cases hlt : j.val < i.val
    · simp [hlt, hj]
    · have : j.val - i.val ≠ 0 := by omega
      simp [hlt, hj, this]

theorem readCell_writeCell (e : Engine) (n m : RegName) (i j : CellIndex) (v : Bool) :
    (e.writeCell n i v).readCell m j = if m = n then (if j = i then v else e.readCell n j) else e.readCell m j := by
  by_cases h : m = n
  · subst h
    simp [Engine.readCell, Engine.writeCell, cellRead_cellWrite]
  · simp [Engine.readCell, Engine.writeCell, h]

@[simp] theorem cellRead_xor (x y : Word) (i : CellIndex) :
    cellRead (x ^^^ y) i = xor (cellRead x i) (cellRead y i) := by
  simp [cellRead]

@[simp] theorem cellRead_and (x y : Word) (i : CellIndex) :
    cellRead (x &&& y) i = (cellRead x i && cellRead y i) := by
  simp [cellRead]

@[simp] theorem cellRead_zero (i : CellIndex) : cellRead 0#32 i = false := by
  simp [cellRead]

/-- A bit as a 32-bit value has that bit in cell 0 and no other. -/
theorem getLsbD_bitWord (v : Bool) (i : Nat) : (bitWord v).getLsbD i = (decide (i = 0) && v) := by
  by_cases h : i = 0
  · subst h; simp [bitWord]
  · simp [bitWord, h]

/-- The xor of a list of bits says whether it has an odd number of ones. -/
theorem foldr_xor_eq_odd_countP {α : Type} (p : α → Bool) (l : List α) :
    (l.map p).foldr xor false = decide (l.countP p % 2 = 1) := by
  induction l with
  | nil => rfl
  | cons x l ih =>
    rw [List.map_cons, List.foldr_cons, ih, List.countP_cons]
    cases p x
    · simp
    · rcases Nat.mod_two_eq_zero_or_one (l.countP p) with h | h <;>
        simp [h] <;> omega

/-- The parity of a value is the xor of all its bits (spec/00_scope.md R8, notation). -/
theorem parity_eq_foldr {w : Nat} (v : BitVec w) :
    parity v = ((List.range w).map (fun i => v.getLsbD i)).foldr xor false := by
  rw [foldr_xor_eq_odd_countP]
  rfl

/-- A value has at most as many ones as it has bits. -/
theorem popcount_le {w : Nat} (v : BitVec w) : popcount v ≤ w := by
  simpa [popcount] using List.countP_le_length (p := fun i => v.getLsbD i) (l := List.range w)

end Sys2Proof.Machine
end

