-- ==== Sys2Proof/Laws/Functions.lean ====
section
/-! SUPPORT. What the feedback engine, STEP and the keystream generator do. -/

namespace Sys2Proof.Machine

@[simp] theorem tapParity_nil (r : Word) : tapParity [] r = false := rfl

@[simp] theorem tapParity_cons (i : CellIndex) (taps : List CellIndex) (r : Word) :
    tapParity (i :: taps) r = xor (cellRead r i) (tapParity taps r) := rfl

/-- A feedback network sees nothing but its tapped cells (spec/41_feedback.md R80). -/
theorem tapParity_congr {taps : List CellIndex} {r r' : Word}
    (h : ∀ i ∈ taps, cellRead r i = cellRead r' i) : tapParity taps r = tapParity taps r' := by
  unfold tapParity
  rw [List.map_congr_left h]

/-- A parity network is linear over xor, whatever its taps. -/
theorem tapParity_xor (taps : List CellIndex) (x y : Word) :
    tapParity taps (x ^^^ y) = xor (tapParity taps x) (tapParity taps y) := by
  induction taps with
  | nil => rfl
  | cons i taps ih =>
    simp only [tapParity_cons, cellRead_xor, ih]
    cases cellRead x i <;> cases cellRead y i <;> cases tapParity taps x <;> simp

/-- The order in which a network adds its taps does not matter. -/
theorem tapParity_perm {taps taps' : List CellIndex} (h : taps.Perm taps') (r : Word) :
    tapParity taps r = tapParity taps' r := by
  induction h with
  | nil => rfl
  | cons i _ ih => rw [tapParity_cons, tapParity_cons, ih]
  | swap i j taps =>
    simp only [tapParity_cons]
    rw [← Bool.xor_assoc, ← Bool.xor_assoc, Bool.xor_comm (cellRead r j)]
  | trans _ _ ih ih' => rw [ih, ih']

/-- The parity under a mask is the network whose taps are the mask's cells (spec/41_feedback.md R80). -/
theorem parity_and_eq_tapParity (r m : Word) :
    parity (r &&& m) = tapParity ((List.finRange 32).filter (cellRead m)) r := by
  have masked : ∀ l : List CellIndex,
      (l.map (cellRead (r &&& m))).foldr xor false = tapParity (l.filter (cellRead m)) r := by
    intro l
    induction l with
    | nil => rfl
    | cons i l ih =>
      rw [List.map_cons, List.foldr_cons, ih, cellRead_and]
      cases h : cellRead m i
      · rw [List.filter_cons_of_neg (by simp [h])]; simp
      · rw [List.filter_cons_of_pos h, tapParity_cons]; simp
  rw [parity_eq_foldr, ← masked]
  rfl

/-- Everything STEP does, cell by cell: the shift of every register and the three filled cells. -/
theorem readCell_stepEngine (e : Engine) (n : RegName) (i : CellIndex) :
    (stepEngine e).readCell n i =
      if i = 0 then
        match n with
        | .A => fbK e.k
        | .B => xor (fbK e.k) (fbA e.a)
        | .K => xor (fbA e.a) (fbB e.b)
      else (e.get n).getLsbD (i.val - 1) := by
  have h0 : i ≠ 0 → 0 < i.val := fun h => Nat.pos_of_ne_zero fun e => h (Fin.ext e)
  unfold stepEngine
  cases n <;>
    · simp only [readCell_writeCell]
      by_cases hi : i = 0
      · simp [hi]
      · simp [hi, Engine.readCell, cellRead_shift, h0 hi]

/-- A single cell's table entry: `T[1]` or `T[0]` (spec/43_keystream.md R101). -/
theorem memRead_cellIndex (t : Symbol → Symbol) (c : Bool) :
    memRead t (cellIndex c) = if c then t 1#8 else t 0#8 := by
  cases c <;> rfl

/-- The sum over any cells: one `T[1]` for each set cell and one `T[0]` for each other. -/
theorem sum_table_entries (t : Symbol → Symbol) (cells : List Bool) :
    (cells.map (fun c => (memRead t (cellIndex c)).toNat)).sum =
      cells.count false * (t 0#8).toNat + cells.count true * (t 1#8).toNat := by
  induction cells with
  | nil => simp
  | cons c cells ih =>
    rw [List.map_cons, List.sum_cons, ih, memRead_cellIndex]
    cases c <;> simp [Nat.add_mul] <;> omega

theorem windowCells_length (a b : Word) : (windowCells a b).length = 16 := rfl

end Sys2Proof.Machine
end

