-- ==== Sys2Proof/Laws/Cycle.lean ====
section
/-! SUPPORT. What a command, a clock cycle, a step and a run can do, said once. -/

namespace Sys2Proof.Machine

/-- The one thing a command does, whichever it is (spec/44_driver.md R110). -/
theorem exec_eq (i : Instr) (s : State) :
    exec i s = .next (s.complete (processSymbol s.engine (operand i))) := by
  cases i <;> rfl

@[simp] theorem pins_presenting_rst (i : Instr) : (Pins.presenting i).rst = false := rfl

@[simp] theorem pins_presenting_cmdValid (i : Instr) : (Pins.presenting i).cmdValid = true := rfl

theorem clockCycle_reset {p : Pins} (h : p.rst = true) (s : State) :
    clockCycle p s = .next (resetEvent s) := by
  simp [clockCycle, h]

theorem clockCycle_idle {p : Pins} (hr : p.rst = false) (hv : p.cmdValid = false) (s : State) :
    clockCycle p s = .next (idleCycle s) := by
  simp [clockCycle, hr, hv]

theorem clockCycle_command {p : Pins} (hr : p.rst = false) (hv : p.cmdValid = true) {s : State}
    (hs : Constructed s) : clockCycle p s = exec (decode p.commandWord) s := by
  have hs' : s.lifecycle = .constructed := hs
  simp [clockCycle, acceptCommand, hr, hv, hs']

theorem clockCycle_refused {p : Pins} (hr : p.rst = false) (hv : p.cmdValid = true) {s : State}
    (hs : s.lifecycle = .poweredOn) : clockCycle p s = .refused .commandBeforeReset := by
  simp [clockCycle, acceptCommand, hr, hv, hs]

/-- Everything a clock cycle can end in: the three cases of spec/30_encoding.md R53, and the refused command of
spec/60_exceptions.md R132. -/
theorem clockCycle_cases (p : Pins) (s : State) :
    (p.rst = true ∧ clockCycle p s = .next (resetEvent s)) ∨
    (p.rst = false ∧ p.cmdValid = false ∧ clockCycle p s = .next (idleCycle s)) ∨
    (p.rst = false ∧ p.cmdValid = true ∧ Constructed s ∧
      clockCycle p s = .next (s.complete (processSymbol s.engine (operand (decode p.commandWord))))) ∨
    (p.rst = false ∧ p.cmdValid = true ∧ s.lifecycle = .poweredOn ∧
      clockCycle p s = .refused .commandBeforeReset) := by
  cases hr : p.rst with
  | true => exact .inl ⟨rfl, clockCycle_reset hr s⟩
  | false =>
    cases hv : p.cmdValid with
    | false => exact .inr (.inl ⟨rfl, rfl, clockCycle_idle hr hv s⟩)
    | true =>
      cases hs : s.lifecycle with
      | poweredOn => exact .inr (.inr (.inr ⟨rfl, rfl, rfl, clockCycle_refused hr hv hs⟩))
      | constructed =>
        exact .inr (.inr (.inl ⟨rfl, rfl, hs, by rw [clockCycle_command hr hv hs, exec_eq]⟩))

/-- A step runs the next listed cycle and the host moves on. -/
theorem step_withPending_cons (s : State) (p : Pins) (ps : List Pins) :
    step (s.withPending (p :: ps)) = clockCycle p (s.withPending ps) := rfl

@[simp] theorem steps_zero (s : State) : steps 0 s = .next s := rfl

/-- A run that begins with a step that has a next state goes on from there. -/
theorem steps_succ_of_next {s t : State} (h : step s = .next t) (n : Nat) :
    steps (n + 1) s = steps n t := by
  simp [steps, h]

/-- Runs can be joined. -/
theorem steps_add_of_next {m : Nat} {s t : State} (h : steps m s = .next t) (n : Nat) :
    steps (m + n) s = steps n t := by
  induction m generalizing s with
  | zero => simp_all [steps]
  | succ m ih =>
    rw [Nat.add_right_comm]
    cases hs : step s with
    | next u =>
      rw [steps_succ_of_next hs] at h ⊢
      exact ih h
    | fault f => simp [steps, hs] at h
    | refused r => simp [steps, hs] at h

/-- The transaction machine on two event lists in a row. -/
theorem runEvents_append (e : Engine) (xs ys : List Event) :
    runEvents e (xs ++ ys) = ((runEvents (runEvents e xs).1 ys).1,
      (runEvents e xs).2 ++ (runEvents (runEvents e xs).1 ys).2) := by
  induction xs generalizing e with
  | nil => rfl
  | cons x xs ih => simp [runEvents, ih]

end Sys2Proof.Machine
end

