-- ==== Sys2Proof/Laws/Encoding.lean ====
section
/-! SUPPORT. The two fields of a command word that is put together from them. -/

namespace Sys2Proof

theorem make_dir (dir : Bool) (d : Symbol) : (CommandWord.make dir d).dir = dir := by
  show (BitVec.ofBool dir ++ d).getLsbD 8 = dir
  rw [BitVec.getLsbD_append]
  cases dir <;> rfl

theorem make_data (dir : Bool) (d : Symbol) : (CommandWord.make dir d).data = d := by
  apply BitVec.eq_of_getLsbD_eq
  intro n hn
  show ((BitVec.ofBool dir ++ d).extractLsb' 0 8).getLsbD n = d.getLsbD n
  rw [BitVec.getLsbD_extractLsb', Nat.zero_add, BitVec.getLsbD_append]
  simp [hn]

/-- A command word is its two fields. -/
theorem make_dir_data (cw : CommandWord) : CommandWord.make cw.dir cw.data = cw := by
  apply BitVec.eq_of_getLsbD_eq
  intro n hn
  show (BitVec.ofBool cw.dir ++ cw.data).getLsbD n = cw.getLsbD n
  rw [BitVec.getLsbD_append]
  by_cases h : n < 8
  · simp [h, CommandWord.data]
  · obtain rfl : n = 8 := by omega
    simp [CommandWord.dir]

end Sys2Proof
end

