-- ==== Sys2Proof/Laws/PerInstr.lean ====
section
/-! SUPPORT. Statements about the command as syntax, one lemma per constructor. -/

namespace Sys2Proof.Laws.EncodingFields

/-- The encoding carries the direction in `cw[8]` and the operand in `cw[7:0]` (spec/30_encoding.md R51, R52), and the
operand is a byte. -/
def Statement (i : Instr) : Prop :=
  (encode i).dir = Sys2Proof.Machine.direction i ∧ (encode i).data = Sys2Proof.Machine.operand i ∧
    i.wellFormed = true ∧ Sys2Proof.Machine.operandValue i ≤ 255

theorem enc (imm : Symbol) : Statement (.enc imm) :=
  have h : imm.toNat ≤ 255 := Nat.le_of_lt_succ imm.isLt
  ⟨make_dir _ _, make_data _ _, decide_eq_true h, h⟩

theorem dec (imm : Symbol) : Statement (.dec imm) :=
  have h : imm.toNat ≤ 255 := Nat.le_of_lt_succ imm.isLt
  ⟨make_dir _ _, make_data _ _, decide_eq_true h, h⟩

end Sys2Proof.Laws.EncodingFields
end

