-- ==== Sys2Proof/Tests/Slice0.lean ====
section
/-! SUPPORT. The model's own tests. Expected values come from the vectors of spec/95_test_vectors.md (named with each
test), the examples of the rules, or the rules' encodings, never from the model; then the witnesses of the hypotheses of
the obligations. -/

namespace Sys2Proof.Machine.Tests

/-- The unreachable start state of V-STEP-8, V-CMD-5 and program P4. -/
def sample : Engine := { a := 0xDEADBEEF#32, b := 0x12345678#32, k := 0xA5A5A5A5#32 }

/-- An engine past its reset event, with chosen registers, facing the cycles `ps`. -/
def at_ (e : Engine) (ps : List Pins) : State := { State.reset with engine := e, pending := ps }

/-- The next state, if there is one. -/
def next? (o : Host.Outcome State Fault Refusal) : Option State :=
  match o with
  | .next s => some s
  | .fault _ => none
  | .refused _ => none

/-- The refusal, if there is one. -/
def refusal? (o : Host.Outcome State Fault Refusal) : Option Refusal :=
  match o with
  | .next _ => none
  | .fault _ => none
  | .refused r => some r

/-! ### Well-formedness: each check refuses an ill-formed term -/

theorem test_number_operand_is_a_byte :
    (Imm8.number 256).wellFormed = false ∧ (Imm8.number 255).wellFormed = true := by decide

theorem test_character_operand_is_ascii :
    (Imm8.ascii 'é').wellFormed = false ∧ (Imm8.ascii 'A').wellFormed = true ∧ (Imm8.ascii 'A').value = 0x41 := by
  decide

theorem test_line_checks_its_operands :
    (Line.enc (.number 256)).wellFormed = false ∧ (Line.dec (.number 300)).wellFormed = false ∧
    (Line.encs [.number 1, .number 256]).wellFormed = false ∧ (Line.decs [.ascii 'é']).wellFormed = false ∧
    (Line.encs []).wellFormed = true ∧ (Line.idle 7).wellFormed = true := by decide

theorem test_every_instr_is_well_formed_at_its_bounds :
    (Instr.enc 0x00#8).wellFormed = true ∧ (Instr.dec 0xFF#8).wellFormed = true := by decide

/-! ### Decoding: words written out bit by bit, `cw[8]` then `cw[7:0]` (R51, R56) -/

/-- V-DEC-2 and V-DEC-3. -/
theorem test_decode_enc : decode 0b0_01000001#9 = .enc 0x41#8 ∧ decode 0b0_11111111#9 = .enc 0xFF#8 := by decide

/-- V-DEC-4 and V-DEC-5. -/
theorem test_decode_dec : decode 0b1_00000000#9 = .dec 0x00#8 ∧ decode 0b1_01000001#9 = .dec 0x41#8 := by decide

/-- The words of program P4 (`041`, `149`). -/
theorem test_encode : encode (.enc 0x41#8) = 0x041#9 ∧ encode (.dec 0x49#8) = 0x149#9 := by decide

/-- The byte form is the model's choice (notes/assumptions/10.md): first byte least significant, a missing byte is 0; a set
bit above `cw[8]` is rejected by name. -/
theorem test_decode_bytes :
    decodeBytes [0x41#8, 0x01#8] = .ok (.dec 0x41#8) ∧ decodeBytes [0x41#8] = .ok (.enc 0x41#8) ∧
    decodeBytes [0x41#8, 0x02#8] = .error .widerThanCommandWord ∧
    decodeBytes [0x41#8, 0x01#8, 0x01#8] = .error .widerThanCommandWord := by decide

theorem test_table_word :
    decodeTableWord 16 0x141 = some (.dec 0x41#8) ∧ decodeTableWord 16 0x1FF = some (.dec 0xFF#8) ∧
    decodeTableWord 16 0x200 = none := by decide

/-! ### The internal functions -/

/-- V-SH-2, V-SH-3, V-SH-5, V-SH-7. -/
theorem test_shift :
    shift 0x00000001#32 = 0x00000002#32 ∧ shift 0x80000000#32 = 0x00000000#32 ∧
    shift 0x7FFFFFFF#32 = 0xFFFFFFFE#32 ∧ shift 0xDEADBEEF#32 = 0xBD5B7DDE#32 := by decide

/-- The examples of R70 and R71. -/
theorem test_cell_read_and_write :
    cellRead 0x80000001#32 0 = true ∧ cellRead 0x80000001#32 1 = false ∧ cellRead 0x80000001#32 31 = true ∧
    cellWrite 0x00000002#32 0 true = 0x00000003#32 := by decide

/-- V-FB-2, V-FB-7, V-FB-9 to V-FB-13, in the order fK, fA, fB. -/
theorem test_feedback :
    [0xFFFFFFFF#32, 0x40000000#32, 0xDEADBEEF#32, 0x12345678#32, 0x0000FFFF#32, 0xFFFF0000#32, 0xA5A5A5A5#32].map
        (fun r => (fbK r, fbA r, fbB r)) =
      [(false, false, true), (false, false, true), (false, true, true), (true, false, true),
        (false, true, true), (false, true, false), (false, false, true)] := by decide

/-- V-STEP-4 and V-STEP-5, the detectors of the two wrong orders, and V-STEP-6 and V-STEP-8. -/
theorem test_step_function :
    stepEngine ⟨0#32, 0#32, 1#32⟩ = ⟨1#32, 1#32, 2#32⟩ ∧
    stepEngine ⟨1#32, 1#32, 1#32⟩ = ⟨3#32, 2#32, 2#32⟩ ∧
    stepEngine ⟨0x80000000#32, 0x80000000#32, 0x80000000#32⟩ = ⟨1#32, 0#32, 0#32⟩ ∧
    stepEngine sample = ⟨0xBD5B7DDE#32, 0x2468ACF1#32, 0x4B4B4B4A#32⟩ := by decide

/-- The inverse check below the V-STEP vectors. -/
theorem test_unstep : unstepEngine ⟨0xBD5B7DDE#32, 0x2468ACF1#32, 0x4B4B4B4A#32⟩ = sample := by decide

/-- V-KS-2, V-KS-4, V-KS-6, V-KS-10, V-KS-11. -/
theorem test_keystream :
    keystream 0xFFFFFFFF#32 0xFFFFFFFF#32 = 16#8 ∧ keystream 0#32 0xFF000000#32 = 8#8 ∧
    keystream 0x01000000#32 0x80000000#32 = 2#8 ∧ keystream 0x00800000#32 0x00800000#32 = 0#8 ∧
    keystream 0xBD5B7DDE#32 0x2468ACF1#32 = 8#8 := by decide

/-- V-KS-13 to V-KS-15, over a table that is not this hardware's. -/
theorem test_keystream_over_another_table :
    let t : Symbol → Symbol := fun j => if j = 0#8 then 0x25#8 else 0xC3#8
    keystreamOver t 0#32 0#32 = 0x50#8 ∧ keystreamOver t 0xFF000000#32 0xFF000000#32 = 0x30#8 ∧
    keystreamOver t 0xA5000000#32 0x3C000000#32 = 0x40#8 := by decide

/-! ### The two commands -/

/-- V-CMD-5. -/
theorem test_enc : (next? (exec (.enc 0x41#8) (at_ sample []))).map (fun t => (t.engine, t.out)) =
    some (⟨0xBD5B7DDE#32, 0x2468ACF1#32, 0x4B4B4B4A#32⟩, ⟨true, 0x49#8⟩) := by decide

/-- V-CMD-8: the largest keystream byte. -/
theorem test_enc_all_ones :
    (next? (exec (.enc 0xFF#8) (at_ ⟨0xFFFFFFFF#32, 0xFFFFFFFF#32, 0xFFFFFFFF#32⟩ []))).map
        (fun t => (t.engine, t.out)) =
      some (⟨0xFFFFFFFE#32, 0xFFFFFFFE#32, 0xFFFFFFFF#32⟩, ⟨true, 0xEF#8⟩) := by decide

/-- V-CMD-6. -/
theorem test_dec : (next? (exec (.dec 0x49#8) (at_ sample []))).map (fun t => (t.engine, t.out)) =
    some (⟨0xBD5B7DDE#32, 0x2468ACF1#32, 0x4B4B4B4A#32⟩, ⟨true, 0x41#8⟩) := by decide

/-! ### One clock cycle -/

/-- V-CMD-2, with the word placed as the host places it. -/
theorem test_placed_word_runs :
    (next? (step (State.reset.withFetchWord 16 0x141))).map (fun t => (t.engine, t.out, t.taken)) =
      some (Engine.fresh, ⟨true, 0x41#8⟩, [0x41#8]) := by decide

/-- V-CMD-12: reset wins over a command in the same cycle. -/
theorem test_reset_beats_command :
    (next? (step (at_ sample [⟨true, true, false, 0x41#8⟩]))).map (fun t => (t.engine, t.out.valid, t.taken)) =
      some (Engine.fresh, false, []) := by decide

/-- V-CMD-10. -/
theorem test_idle_keeps_registers :
    (next? (step (at_ sample [⟨false, false, true, 0x41#8⟩]))).map (fun t => (t.engine, t.out.valid, t.taken)) =
      some (sample, false, []) := by decide

/-- R132: a command before the first reset event has no meaning. -/
theorem test_command_before_reset :
    refusal? (step (State.powerOn sample ⟨false, 0#8⟩ [⟨false, true, false, 0x41#8⟩])) =
      some .commandBeforeReset := by decide

/-! ### Programs -/

/-- The words a listing of the first lines of program P1 and of `IDLE` shows (R62). -/
theorem test_listing :
    (expandProgram [.rst, .enc (.ascii 'A'), .idle 1, .dec (.number 0x41), .ksb]).map Pins.listed =
      [none, some 0x041#9, none, some 0x141#9, some 0x000#9] := by decide

/-- R61: a line reaches the engine it names and no other. -/
theorem test_load_program :
    (loadProgram [⟨0, .rst⟩, ⟨1, .encs [.number 1, .number 2]⟩, ⟨0, .ksb⟩]
      [at_ sample [], at_ sample []]).map (fun s => s.pending.map Pins.listed) =
      [[none, some 0x000#9], [some 0x001#9, some 0x002#9]] := by decide

/-! ### Witnesses: states and operands that meet the hypotheses of the obligations -/

/-- PlacedWordRunsNext, at the highest word. -/
theorem witness_PlacedWordRunsNext :
    Constructed State.reset ∧ decodeTableWord 16 0x1FF = some (.dec 0xFF#8) := by decide

/-- NothingFaultsOrIsRefusedOnceReset, ClockedMachineRefinesTransactions, IdleCyclesCanBeDropped and
EqualRegistersAreIndistinguishable. -/
theorem witness_Constructed : Constructed (at_ sample []) := by decide

/-- OnlyCommandsBeforeResetAreRefused: a state on each side of its equivalence. -/
theorem witness_OnlyCommandsBeforeResetAreRefused :
    step (State.powerOn sample ⟨false, 0#8⟩ [⟨false, true, true, 0xFF#8⟩]) = .refused .commandBeforeReset ∧
    (State.powerOn sample ⟨false, 0#8⟩ [⟨false, true, true, 0xFF#8⟩]).lifecycle = .poweredOn :=
  ⟨rfl, rfl⟩

/-- EachWordSelectsOneRow, at the lowest and the highest word. -/
theorem witness_EachWordSelectsOneRow :
    rowEnc ∈ opcodeRows ∧ rowEnc.selects 0x000#9 = true ∧ rowDec ∈ opcodeRows ∧ rowDec.selects 0x1FF#9 = true := by
  decide

/-- CellReadAndWrite, both branches of its middle clause at the two ends of a register. -/
theorem witness_CellReadAndWrite :
    (sample.writeCell .K 31 false).readCell .K 31 = false ∧ (sample.writeCell .K 31 false).readCell .A 31 = true ∧
    (sample.writeCell .K 31 false).readCell .K 0 = true := by decide

/-- FeedbackIsSumModTwo: the three tap sets name no cell twice. -/
theorem witness_FeedbackIsSumModTwo :
    Config.tapsK.Nodup ∧ Config.tapsA.Nodup ∧ Config.tapsB.Nodup := by decide

/-- FeedbackLaws: the three functions it quantifies over, and the ends of its lists of cells. -/
theorem witness_FeedbackLaws :
    (fbK (1#32 <<< 31), fbA (1#32 <<< 31), fbB (1#32 <<< 31)) = (true, true, true) ∧
    (fbK (1#32 <<< 29), fbA (1#32 <<< 29), fbB (1#32 <<< 29)) = (false, false, false) := by decide

/-- StepsCarryCellsUpward, over the whole register. -/
theorem witness_StepsCarryCellsUpward : (31 : CellIndex).val = (0 : CellIndex).val + 31 := by decide

/-- StepIsInvertible: the equivalence of its last clause at the zero state. -/
theorem witness_StepIsInvertible : stepEngine Engine.fresh = Engine.fresh := by decide

/-- SeedReachesKeystreamAtStep24: the last step before the window. -/
theorem witness_SeedReachesKeystreamAtStep24 : 23 < 24 := by decide

/-- KeystreamCountsWindowOnes: bit 4 is set when all window cells are. -/
theorem witness_KeystreamCountsWindowOnes : (keystream 0xFF000000#32 0xFF000000#32)[4] = true := by decide

/-- KeystreamReadsEntriesZeroAndOne: two different tables that agree at 0 and 1. -/
theorem witness_KeystreamReadsEntriesZeroAndOne :
    let t : Symbol → Symbol := fun j => if j = 2#8 then 0#8 else j
    t 0#8 = Config.table 0#8 ∧ t 1#8 = Config.table 1#8 ∧ t 2#8 ≠ Config.table 2#8 := by decide

/-- KeystreamSeesWindowInAnyOrder: different registers with the same window cells in another order. -/
theorem witness_KeystreamSeesWindowInAnyOrder :
    (windowCells 0x01000000#32 0x80000000#32).Perm (windowCells 0x00000005#32 0x24000000#32) := by decide

/-- CommandFrame. -/
theorem witness_CommandFrame : ∃ t, exec (.dec 0x49#8) (at_ sample []) = .next t := ⟨_, rfl⟩

/-- EveryStepKeepsSafeState and OutputEqualsInputFromReset, at the reset state with something to present. -/
theorem witness_SafeState : SafeState (State.reset.withPending [Pins.presenting (.enc 0x41#8)]) := by decide

/-- EnginesShareNothing: engine 1 of two takes a step. -/
theorem witness_EnginesShareNothing :
    ∃ sys', stepMember 1 [at_ sample [], at_ sample []] = .next sys' := ⟨_, rfl⟩

/-- OutputEqualsInputFromReset and ClockCycleHasThreeCases: cycles on both sides of their conditions. -/
theorem witness_cycles_of_each_case :
    (Pins.reset.accepts, Pins.idle.accepts, (Pins.presenting (.enc 0#8)).accepts) = (false, false, true) := by decide

/-- TableWordReading: the words where its two cases meet. -/
theorem witness_TableWordReading : 511 < 512 ∧ ¬ 512 < 512 := by decide

end Sys2Proof.Machine.Tests
end

