-- ==== Sys2Proof/Proofs/StateFamily.lean ====
section
/-! PROOFS. The state (spec/10_state.md): the reset state is safe (R14), and engines with equal registers that are given
the same cycles are indistinguishable (R23). -/

namespace Sys2Proof.Machine

/-! ### The reset state -/

/-- R14, R150: with no valid output on the port, nothing is asked of what the host has taken. -/
theorem safeState_reset : SafeState State.reset := by
  have noOutput : State.reset.out.valid = false := rfl
  exact ⟨rfl, rfl, fun valid => absurd valid (by simp [noOutput])⟩

/-- Settles O44, from the fields of the reset state and `safeState_reset`. -/
theorem resetStateIsSafe : Obligations.ResetStateIsSafe :=
  ⟨rfl, rfl, safeState_reset⟩

/-! ### Equal registers, same cycles -/

/-- Two engines past a reset event with equal registers, in front of which the hosts present the same cycles. The output
ports, what the hosts have taken and the draw counters may differ. -/
structure EqualRegisters (s s' : State) : Prop where
  left : Constructed s
  right : Constructed s'
  engine : s.engine = s'.engine
  pending : s.pending = s'.pending

/-- The runs from `s` to `t` and from `s'` to `t'` look the same to a host: equal registers and cycles to come, equal
valid outputs on the ports, and the same outputs taken on the way. -/
structure SameBehaviour (s s' t t' : State) : Prop extends EqualRegisters t t' where
  valid : t.out.valid = t'.out.valid
  data : t.out.valid = true → t.out.data = t'.out.data
  taken : ∃ new : List Symbol, t.taken = s.taken ++ new ∧ t'.taken = s'.taken ++ new

/-- What two runs in a row add to the taken outputs is what they add one after the other. -/
theorem SameBehaviour.trans {s s' m m' t t' : State} (first : SameBehaviour s s' m m')
    (second : SameBehaviour m m' t t') : SameBehaviour s s' t t' := by
  obtain ⟨xs, hm, hm'⟩ := first.taken
  obtain ⟨ys, ht, ht'⟩ := second.taken
  exact { second with taken := ⟨xs ++ ys, by simp [ht, hm], by simp [ht', hm']⟩ }

theorem EqualRegisters.endCycle {s s' : State} (h : EqualRegisters s s') :
    EqualRegisters s.endCycle s'.endCycle :=
  ⟨h.left, h.right, h.engine, congrArg List.tail h.pending⟩

theorem EqualRegisters.sampledPins {s s' : State} (h : EqualRegisters s s') :
    s.sampledPins = s'.sampledPins :=
  congrArg (List.headD · Pins.idle) h.pending

theorem sameBehaviour_resetEvent {s s' : State} (h : EqualRegisters s s') :
    SameBehaviour s s' (resetEvent s) (resetEvent s') where
  left := rfl
  right := rfl
  engine := rfl
  pending := h.pending
  valid := rfl
  data := by simp
  taken := ⟨[], by simp, by simp⟩

theorem sameBehaviour_idleCycle {s s' : State} (h : EqualRegisters s s') :
    SameBehaviour s s' (idleCycle s) (idleCycle s') where
  left := h.left
  right := h.right
  engine := h.engine
  pending := h.pending
  valid := rfl
  data := by simp
  taken := ⟨[], by simp, by simp⟩

/-- A command writes the same registers and the same output on both sides. -/
theorem sameBehaviour_complete {s s' : State} (h : EqualRegisters s s') (r : Engine × Symbol) :
    SameBehaviour s s' (s.complete r) (s'.complete r) where
  left := h.left
  right := h.right
  engine := rfl
  pending := h.pending
  valid := rfl
  data := fun _ => rfl
  taken := ⟨[r.2], rfl, rfl⟩

/-- One clock cycle with the same pins, by the three cases of spec/30_encoding.md R53. A command's result is a function
of the registers alone, so it is one result for both engines. -/
theorem clockCycle_sameBehaviour {s s' : State} (h : EqualRegisters s s') (p : Pins) :
    ∃ t t', clockCycle p s = .next t ∧ clockCycle p s' = .next t' ∧ SameBehaviour s s' t t' := by
  cases hr : p.rst with
  | true => exact ⟨_, _, clockCycle_reset hr s, clockCycle_reset hr s', sameBehaviour_resetEvent h⟩
  | false =>
    cases hv : p.cmdValid with
    | false =>
      exact ⟨_, _, clockCycle_idle hr hv s, clockCycle_idle hr hv s', sameBehaviour_idleCycle h⟩
    | true =>
      let r := processSymbol s.engine (operand (decode p.commandWord))
      have hs : clockCycle p s = .next (s.complete r) := by
        rw [clockCycle_command hr hv h.left, exec_eq]
      have hs' : clockCycle p s' = .next (s'.complete r) := by
        rw [clockCycle_command hr hv h.right, exec_eq, ← h.engine]
      exact ⟨_, _, hs, hs', sameBehaviour_complete h r⟩

theorem step_sameBehaviour {s s' : State} (h : EqualRegisters s s') :
    ∃ t t', step s = .next t ∧ step s' = .next t' ∧ SameBehaviour s s' t t' := by
  obtain ⟨t, t', ht, ht', same⟩ := clockCycle_sameBehaviour h.endCycle s.sampledPins
  rw [h.sampledPins] at ht'
  exact ⟨t, t', ht, ht', { same with }⟩

theorem steps_succ_sameBehaviour (n : Nat) {s s' : State} (h : EqualRegisters s s') :
    ∃ t t', steps (n + 1) s = .next t ∧ steps (n + 1) s' = .next t' ∧ SameBehaviour s s' t t' := by
  induction n generalizing s s' with
  | zero =>
    obtain ⟨t, t', ht, ht', same⟩ := step_sameBehaviour h
    exact ⟨t, t', steps_succ_of_next ht 0, steps_succ_of_next ht' 0, same⟩
  | succ n ih =>
    obtain ⟨m, m', hm, hm', first⟩ := step_sameBehaviour h
    obtain ⟨t, t', ht, ht', rest⟩ := ih first.toEqualRegisters
    exact ⟨t, t', (steps_succ_of_next hm _).trans ht, (steps_succ_of_next hm' _).trans ht',
      first.trans rest⟩

/-- Settles O43: the two start states have equal registers and cycles, and every further step keeps them so
(`steps_succ_sameBehaviour`). -/
theorem equalRegistersAreIndistinguishable : Obligations.EqualRegistersAreIndistinguishable := by
  intro s o seen draws n constructed
  have start : EqualRegisters s { s with out := o, taken := seen, draws := draws } :=
    ⟨constructed, constructed, rfl, rfl⟩
  obtain ⟨t, u, ht, hu, same⟩ := steps_succ_sameBehaviour n start
  exact ⟨t, u, ht, hu, same.engine, same.valid, same.data, same.taken⟩

end Sys2Proof.Machine
end

section
/-! PROOFS. The command word (spec/30_encoding.md): decoding and encoding are inverse bijections (R63), and every word
selects exactly one row of the opcode map (R56). -/

namespace Sys2Proof

/-! ### Decoding and encoding -/

/-- R51, R52: a word put together from a direction and a byte is the command of that direction on that byte. -/
theorem decode_make (dir : Bool) (d : Symbol) :
    decode (CommandWord.make dir d) = if dir then .dec d else .enc d := by
  rw [decode, make_dir, make_data]

@[simp] theorem decode_encode (i : Instr) : decode (encode i) = i := by
  cases i with
  | enc imm => exact decode_make false imm
  | dec imm => exact decode_make true imm

theorem decode_of_dir_eq_false {w : CommandWord} (h : w.dir = false) : decode w = .enc w.data := by
  simp [decode, h]

theorem decode_of_dir_eq_true {w : CommandWord} (h : w.dir = true) : decode w = .dec w.data := by
  simp [decode, h]

@[simp] theorem encode_decode (w : CommandWord) : encode (decode w) = w := by
  cases h : w.dir with
  | false =>
    rw [decode_of_dir_eq_false h, encode, ← h]
    exact make_dir_data w
  | true =>
    rw [decode_of_dir_eq_true h, encode, ← h]
    exact make_dir_data w

/-- R52, R58: there is no command that is not well formed. -/
theorem instr_wellFormed (i : Instr) : i.wellFormed = true := by
  have fields : Laws.EncodingFields.Statement i := by
    cases i with
    | enc imm => exact Laws.EncodingFields.enc imm
    | dec imm => exact Laws.EncodingFields.dec imm
  obtain ⟨_, _, wellFormed, _⟩ := fields
  exact wellFormed

/-- Settles O2: `decode` and `encode` are inverse to each other on both sides (`decode_encode`, `encode_decode`), and the
two fields `decode` reads are `cw[8]` and `cw[7:0]` by definition. -/
theorem decodeAndEncodeAreInverse : Obligations.DecodeAndEncodeAreInverse :=
  ⟨fun i => ⟨decode_encode i, instr_wellFormed i⟩,
    fun w => ⟨encode_decode w, rfl⟩,
    Function.bijective_iff_has_inverse.mpr ⟨encode, encode_decode, decode_encode⟩,
    Function.bijective_iff_has_inverse.mpr ⟨decode, decode_encode, encode_decode⟩⟩

/-! ### The opcode map -/

/-- The mask of both rows leaves `cw[8]` alone. -/
theorem commandWord_and_opcode_mask (w : CommandWord) :
    w &&& 0x100#9 = if w.dir then 0x100#9 else 0x000#9 :=
  BitVec.and_twoPow w 8

theorem rowEnc_selects (w : CommandWord) : rowEnc.selects w = !w.dir := by
  show (w &&& 0x100#9 == 0x000#9) = !w.dir
  rw [commandWord_and_opcode_mask]
  cases w.dir <;> rfl

theorem rowDec_selects (w : CommandWord) : rowDec.selects w = w.dir := by
  show (w &&& 0x100#9 == 0x100#9) = w.dir
  rw [commandWord_and_opcode_mask]
  cases w.dir <;> rfl

theorem rowOf_decode (w : CommandWord) : rowOf (decode w) = if w.dir then rowDec else rowEnc := by
  cases h : w.dir with
  | false => rw [decode_of_dir_eq_false h]; rfl
  | true => rw [decode_of_dir_eq_true h]; rfl

theorem mem_opcodeRows {r : OpcodeRow} : r ∈ opcodeRows ↔ r = rowEnc ∨ r = rowDec := by
  simp [opcodeRows]

/-- A row of the map is selected by exactly the words that decode to a command of that row. -/
theorem selects_iff_eq_rowOf_decode {r : OpcodeRow} (hr : r ∈ opcodeRows) (w : CommandWord) :
    r.selects w = true ↔ r = rowOf (decode w) := by
  have differ : rowEnc ≠ rowDec := by decide
  rw [rowOf_decode]
  obtain rfl | rfl := mem_opcodeRows.mp hr
  · rw [rowEnc_selects]
    cases w.dir <;> simp [differ]
  · rw [rowDec_selects]
    cases w.dir <;> simp [differ.symm]

theorem rowOf_mem_opcodeRows (i : Instr) : rowOf i ∈ opcodeRows := by
  cases i with
  | enc imm => exact mem_opcodeRows.mpr (.inl rfl)
  | dec imm => exact mem_opcodeRows.mpr (.inr rfl)

/-- Settles O3: among the rows of the map, a word selects the row of its command and no other
(`selects_iff_eq_rowOf_decode`). -/
theorem eachWordSelectsOneRow : Obligations.EachWordSelectsOneRow := by
  refine ⟨rfl, fun w => ?_⟩
  have inMap : rowOf (decode w) ∈ opcodeRows := rowOf_mem_opcodeRows (decode w)
  exact ⟨inMap, (selects_iff_eq_rowOf_decode inMap w).mpr rfl,
    fun r hr => (selects_iff_eq_rowOf_decode hr w).mp⟩

end Sys2Proof
end

section
/-! PROOFS. STEP, the keystream byte and a command in the closed forms of the spec (spec/42_step.md R90,
spec/43_keystream.md R103, spec/44_driver.md R111). -/

namespace Sys2Proof.Machine

/-! ### STEP -/

/-- The parity under a mask is any network whose taps are the mask's cells, in whatever order. -/
theorem parity_and_eq_of_perm {m : Word} {taps : List CellIndex}
    (h : ((List.finRange 32).filter (cellRead m)).Perm taps) (r : Word) :
    parity (r &&& m) = tapParity taps r := by
  rw [parity_and_eq_tapParity, tapParity_perm h]

theorem fbK_eq_parity (k : Word) : fbK k = parity (k &&& 0x8FC22F85#32) :=
  (parity_and_eq_of_perm (by decide) k).symm

theorem fbA_eq_parity (a : Word) : fbA a = parity (a &&& 0x84C11DB5#32) :=
  (parity_and_eq_of_perm (by decide) a).symm

theorem fbB_eq_parity (b : Word) : fbB b = parity (b &&& 0xC018C025#32) :=
  (parity_and_eq_of_perm (by decide) b).symm

/-- The packed shift-and-fill: the new bit in cell 0, every other cell from the cell below it. -/
theorem cellRead_shiftLeft_or_bitWord (r : Word) (v : Bool) (i : CellIndex) :
    cellRead ((r <<< 1) ||| bitWord v) i = if i = 0 then v else r.getLsbD (i.val - 1) := by
  have hi := i.isLt
  rw [cellRead, BitVec.getLsbD_or, BitVec.getLsbD_shiftLeft, getLsbD_bitWord]
  by_cases h : i = 0
  · simp [h]
  · have h0 : i.val ≠ 0 := fun e => h (Fin.ext e)
    have h1 : ¬ i.val < 1 := by omega
    simp [h, h0, h1, hi]

/-- The machine's cell-by-cell STEP is the packed form of R90. -/
theorem stepEngine_eq_packedStep (e : Engine) : stepEngine e = packedStep e := by
  refine engine_ext_cells fun n i => ?_
  rw [readCell_stepEngine, fbK_eq_parity, fbA_eq_parity, fbB_eq_parity]
  cases n <;> exact (cellRead_shiftLeft_or_bitWord _ _ i).symm

/-! ### The keystream byte -/

/-- The set window cells of one register are the ones of its top byte. -/
theorem countP_window (r : Word) : Config.window.countP (cellRead r) = popcount (r.extractLsb' 24 8) := by
  have cell : ∀ n ∈ List.range 8, (r.extractLsb' 24 8).getLsbD n = r.getLsbD (24 + n) := by
    intro n hn
    simp [List.mem_range.mp hn]
  have numbers : Config.window.map Fin.val = (List.range 8).map (24 + ·) := rfl
  calc Config.window.countP (cellRead r)
      = (Config.window.map Fin.val).countP r.getLsbD := List.countP_map.symm
    _ = (List.range 8).countP (fun n => r.getLsbD (24 + n)) := by rw [numbers, List.countP_map]; rfl
    _ = popcount (r.extractLsb' 24 8) := List.countP_congr fun n hn => by rw [cell n hn]

theorem count_true_windowCells (a b : Word) : (windowCells a b).count true = windowOnes a b := by
  have side : ∀ r : Word, (Config.window.map (cellRead r)).count true = popcount (r.extractLsb' 24 8) := by
    intro r
    rw [List.count, List.countP_map, ← countP_window]
    exact List.countP_congr fun i _ => by simp
  rw [windowCells, List.count_append, side, side]
  rfl

/-- R103: on this hardware's table the substituted values are the cells themselves, so their sum counts the set ones. -/
theorem windowSum_table (a b : Word) : windowSum Config.table a b = windowOnes a b := by
  rw [windowSum, sum_table_entries, count_true_windowCells]
  simp [Config.table]

theorem keystream_eq_windowOnes (a b : Word) : keystream a b = BitVec.ofNat 8 (windowOnes a b) := by
  rw [keystream, keystreamOver, windowSum_table]
  apply BitVec.eq_of_toNat_eq
  simp [Config.keystreamModulus]

/-! ### One symbol -/

theorem processSymbol_eq (e : Engine) (d : Symbol) :
    processSymbol e d = (packedStep e,
      d ^^^ BitVec.ofNat 8 (windowOnes (packedStep e).a (packedStep e).b)) := by
  rw [processSymbol, stepEngine_eq_packedStep, keystream_eq_windowOnes]

end Sys2Proof.Machine
end

section
/-! PROOFS. The clocked machine computes what the transaction machine computes on the events among its cycles
(spec/30_encoding.md R55). -/

namespace Sys2Proof.Machine

/-! ### The events of a list of cycles -/

theorem event_reset {p : Pins} (h : p.rst = true) : p.event = some .reset := by
  simp [Pins.event, h]

theorem event_command {p : Pins} (hr : p.rst = false) (hv : p.cmdValid = true) :
    p.event = some (.cmd (decode p.commandWord)) := by
  simp [Pins.event, hr, hv]

theorem event_idle {p : Pins} (hr : p.rst = false) (hv : p.cmdValid = false) : p.event = none := by
  simp [Pins.event, hr, hv]

theorem eventsOf_cons (p : Pins) (ps : List Pins) :
    eventsOf (p :: ps) = p.event.toList ++ eventsOf ps := by
  cases h : p.event <;> simp [eventsOf, h]

/-! ### The refinement -/

/-- `t` is past its reset event, and its registers and outputs are those the transaction machine gives on the events
`evs` from `s`. -/
structure AfterEvents (s : State) (evs : List Event) (t : State) : Prop where
  engine : t.engine = (runEvents s.engine evs).1
  taken : t.taken = s.taken ++ (runEvents s.engine evs).2
  constructed : Constructed t

theorem AfterEvents.trans {s m t : State} {xs ys : List Event} (first : AfterEvents s xs m)
    (second : AfterEvents m ys t) : AfterEvents s (xs ++ ys) t where
  engine := by rw [second.engine, first.engine, runEvents_append]
  taken := by rw [second.taken, first.taken, first.engine, runEvents_append, List.append_assoc]
  constructed := second.constructed

theorem afterEvents_resetEvent (s : State) : AfterEvents s [.reset] (resetEvent s) :=
  ⟨rfl, by simp [runEvents, execEvent], rfl⟩

theorem afterEvents_idleCycle {s : State} (h : Constructed s) : AfterEvents s [] (idleCycle s) :=
  ⟨rfl, by simp [runEvents], h⟩

theorem afterEvents_complete {s : State} (h : Constructed s) (i : Instr) :
    AfterEvents s [.cmd i] (s.complete (processSymbol s.engine (operand i))) :=
  ⟨rfl, rfl, h⟩

/-- One clock cycle past the reset event is at most one event, by the three cases of R53. -/
theorem clockCycle_afterEvents {s : State} (h : Constructed s) (p : Pins) :
    ∃ t, clockCycle p s = .next t ∧ AfterEvents s p.event.toList t ∧ t.pending = s.pending := by
  cases hr : p.rst with
  | true =>
    rw [event_reset hr]
    exact ⟨_, clockCycle_reset hr s, afterEvents_resetEvent s, rfl⟩
  | false =>
    cases hv : p.cmdValid with
    | false =>
      rw [event_idle hr hv]
      exact ⟨_, clockCycle_idle hr hv s, afterEvents_idleCycle h, rfl⟩
    | true =>
      rw [event_command hr hv]
      exact ⟨_, (clockCycle_command hr hv h).trans (exec_eq _ s), afterEvents_complete h _, rfl⟩

theorem step_afterEvents {s : State} (h : Constructed s) (p : Pins) (ps : List Pins) :
    ∃ t, step (s.withPending (p :: ps)) = .next t ∧ AfterEvents s p.event.toList t ∧ t.pending = ps := by
  have waiting : Constructed (s.withPending ps) := h
  obtain ⟨t, ht, after, pending⟩ := clockCycle_afterEvents waiting p
  exact ⟨t, ht, { after with }, pending⟩

/-- Running the first of the listed cycles leaves the rest of them to be run. -/
theorem steps_afterEvents {s : State} (h : Constructed s) (ps rest : List Pins) :
    ∃ t, steps ps.length (s.withPending (ps ++ rest)) = .next t ∧ AfterEvents s (eventsOf ps) t ∧
      t.pending = rest := by
  induction ps generalizing s with
  | nil => exact ⟨s.withPending rest, rfl, ⟨rfl, by simp [eventsOf, runEvents], h⟩, rfl⟩
  | cons p ps ih =>
    obtain ⟨m, hm, first, pending⟩ := step_afterEvents h p (ps ++ rest)
    obtain ⟨t, ht, second, done⟩ := ih first.constructed
    rw [← pending, withPending_self] at ht
    refine ⟨t, (steps_succ_of_next hm ps.length).trans ht, ?_, done⟩
    rw [eventsOf_cons]
    exact first.trans second

/-- Settles O37: the events are in closed form by `processSymbol_eq`, and the run follows the transaction machine cycle by
cycle (`steps_afterEvents`). -/
theorem clockedMachineRefinesTransactions : Obligations.ClockedMachineRefinesTransactions := by
  refine ⟨fun e i => ⟨rfl, ?_⟩, fun s ps rest h => ?_⟩
  · rw [execEvent, processSymbol_eq]
  · obtain ⟨t, run, after, pending⟩ := steps_afterEvents h ps rest
    exact ⟨t, run, after.engine, after.taken, pending, after.constructed⟩

end Sys2Proof.Machine
end

section
/-! PROOFS. The register bank (spec/40_register_bank.md): reading and writing a cell (R70, R71), the shift (R72), and the
shift with its vacant cell filled (R74). -/

namespace Sys2Proof.Machine

/-! ### Cell read and cell write -/

/-- R70: a cell read on the packed view. -/
theorem bitWord_cellRead (r : Word) (i : CellIndex) : bitWord (cellRead r i) = (r >>> i.val) &&& 1#32 := by
  rw [BitVec.and_one_eq_setWidth_ofBool_getLsbD, BitVec.getLsbD_ushiftRight, Nat.add_zero]
  rfl

theorem get_writeCell (e : Engine) (n m : RegName) (i : CellIndex) (v : Bool) :
    (e.writeCell n i v).get m = if m = n then cellWrite (e.get n) i v else e.get m :=
  get_set e n m _

/-- The cell that is written and every other cell of the bank, told apart by register and index at once. -/
theorem readCell_writeCell_ite (e : Engine) (n m : RegName) (i j : CellIndex) (v : Bool) :
    (e.writeCell n i v).readCell m j = if m = n ∧ j = i then v else e.readCell m j := by
  rw [readCell_writeCell]
  by_cases h : m = n
  · subst h
    simp
  · simp [h]

/-- Settles O14, from the packed read (`bitWord_cellRead`), the frame of a write (`readCell_writeCell_ite`) and the
register a write leaves (`get_writeCell`). -/
theorem cellReadAndWrite : Obligations.CellReadAndWrite :=
  ⟨fun e n i => bitWord_cellRead (e.get n) i, readCell_writeCell_ite,
    fun e n i v => (get_writeCell e n n i v).trans (if_pos rfl)⟩

/-! ### Shift -/

@[simp] theorem cellRead_shift_zero (r : Word) : cellRead (shift r) 0 = false := by
  simp [cellRead_shift]

@[simp] theorem cellRead_shift_succ (r : Word) (i : Fin 31) :
    cellRead (shift r) i.succ = cellRead r i.castSucc := by
  rw [cellRead_shift]
  simp [cellRead]

theorem toNat_shift (r : Word) : (shift r).toNat = r.toNat * 2 % 2 ^ 32 := by
  rw [shift, BitVec.toNat_shiftLeft, Nat.shiftLeft_eq, Nat.pow_one]

/-- Settles O15: each register of the shifted bank is the shift of that register (`shiftAll_get`). -/
theorem shiftMovesEveryCellByOne : Obligations.ShiftMovesEveryCellByOne := by
  intro e n
  simp only [Engine.readCell, shiftAll_get]
  exact ⟨cellRead_shift_zero _, cellRead_shift_succ _, toNat_shift _⟩

/-! ### Shift and fill -/

/-- R74: SHIFT, then a write to the cell it vacated. -/
def shiftAndFill (r : Word) (v : Bool) : Word := cellWrite (shift r) 0 v

@[simp] theorem cellRead_shiftAndFill_zero (r : Word) (v : Bool) : cellRead (shiftAndFill r v) 0 = v := by
  simp [shiftAndFill, cellRead_cellWrite]

@[simp] theorem cellRead_shiftAndFill_succ (r : Word) (v : Bool) (i : Fin 31) :
    cellRead (shiftAndFill r v) i.succ = cellRead r i.castSucc := by
  simp [shiftAndFill, cellRead_cellWrite]

theorem shiftAndFill_eq_packed (r : Word) (v : Bool) : shiftAndFill r v = (r <<< 1) ||| bitWord v := by
  refine word_ext_cells fun i => ?_
  rw [cellRead_shiftLeft_or_bitWord]
  cases i using Fin.cases with
  | zero => simp
  | succ i =>
    rw [cellRead_shiftAndFill_succ, if_neg (Fin.succ_ne_zero i)]
    rfl

/-- The two registers have the same value in each of the lowest `k` cells. -/
def AgreeBelow (k : Nat) (r r' : Word) : Prop := ∀ i : CellIndex, i.val < k → cellRead r i = cellRead r' i

theorem agreeBelow_zero (r r' : Word) : AgreeBelow 0 r r' := fun i h => absurd h (Nat.not_lt_zero i.val)

theorem eq_of_agreeBelow_width {r r' : Word} (h : AgreeBelow 32 r r') : r = r' :=
  word_ext_cells fun i => h i i.isLt

/-- The agreeing cells move up by one and cell 0 joins them. -/
theorem agreeBelow_succ_shiftAndFill {k : Nat} {r r' : Word} (h : AgreeBelow k r r') (v : Bool) :
    AgreeBelow (k + 1) (shiftAndFill r v) (shiftAndFill r' v) := by
  intro i hi
  cases i using Fin.cases with
  | zero => simp
  | succ i =>
    have below : i.castSucc.val < k := Nat.lt_of_succ_lt_succ hi
    simpa using h i.castSucc below

theorem agreeBelow_foldl_shiftAndFill {k : Nat} {r r' : Word} (h : AgreeBelow k r r') (fill : List Bool) :
    AgreeBelow (k + fill.length) (fill.foldl shiftAndFill r) (fill.foldl shiftAndFill r') := by
  induction fill generalizing k r r' with
  | nil => exact h
  | cons v fill ih =>
    rw [List.length_cons, Nat.add_comm fill.length, ← Nat.add_assoc]
    exact ih (agreeBelow_succ_shiftAndFill h v)

/-- R74: as many fills as a register has cells decide the register, whatever it held before. -/
theorem foldl_shiftAndFill_eq (r r' : Word) {fill : List Bool} (h : fill.length = 32) :
    fill.foldl shiftAndFill r = fill.foldl shiftAndFill r' := by
  have agree := agreeBelow_foldl_shiftAndFill (agreeBelow_zero r r') fill
  rw [h, Nat.zero_add] at agree
  exact eq_of_agreeBelow_width agree

/-- Settles O16, from the packed form and the cells of `shiftAndFill`, and from the cells on which two registers agree
growing by one with every fill (`foldl_shiftAndFill_eq`). -/
theorem shiftAndFillForgetsTheRegister : Obligations.ShiftAndFillForgetsTheRegister :=
  ⟨shiftAndFill_eq_packed,
    fun r v => ⟨cellRead_shiftAndFill_zero r v, cellRead_shiftAndFill_succ r v⟩,
    fun r r' _ => foldl_shiftAndFill_eq r r' List.length_ofFn⟩

end Sys2Proof.Machine
end

section
/-! PROOFS. The feedback engine's formulas (spec/41_feedback.md R81, R82, R83). -/

namespace Sys2Proof.Machine

/-! ### The listed cells -/

/-- A network's xor gathers from the left as well, starting from any bit. -/
theorem xor_tapParity_eq_foldl (v : Bool) (taps : List CellIndex) (r : Word) :
    xor v (tapParity taps r) = taps.foldl (fun f i => xor f (cellRead r i)) v := by
  induction taps generalizing v with
  | nil => simp
  | cons i taps ih => rw [tapParity_cons, ← Bool.xor_assoc, ih, List.foldl_cons]

/-- R80 as the rules write it: the first tapped cell, and each further one xored on from the right. -/
theorem tapParity_cons_eq_foldl (i : CellIndex) (taps : List CellIndex) (r : Word) :
    tapParity (i :: taps) r = taps.foldl (fun f j => xor f (cellRead r j)) (cellRead r i) := by
  rw [tapParity_cons, xor_tapParity_eq_foldl]

theorem fbK_eq_xor_cells (k : Word) :
    fbK k = (k[31] ^^ k[27] ^^ k[26] ^^ k[25] ^^ k[24] ^^ k[23] ^^ k[22] ^^ k[17] ^^
      k[13] ^^ k[11] ^^ k[10] ^^ k[9] ^^ k[8] ^^ k[7] ^^ k[2] ^^ k[0]) :=
  tapParity_cons_eq_foldl 31 Config.tapsK.tail k

theorem fbA_eq_xor_cells (a : Word) :
    fbA a = (a[31] ^^ a[26] ^^ a[23] ^^ a[22] ^^ a[16] ^^ a[12] ^^ a[11] ^^
      a[10] ^^ a[8] ^^ a[7] ^^ a[5] ^^ a[4] ^^ a[2] ^^ a[0]) :=
  tapParity_cons_eq_foldl 31 Config.tapsA.tail a

theorem fbB_eq_xor_cells (b : Word) :
    fbB b = (b[31] ^^ b[30] ^^ b[20] ^^ b[19] ^^ b[15] ^^ b[14] ^^ b[5] ^^ b[2] ^^ b[0]) :=
  tapParity_cons_eq_foldl 31 Config.tapsB.tail b

/-- Settles O18: for each feedback bit the parity under the mask (`parity_and_eq_of_perm`) and the xor of the listed
cells (`tapParity_cons_eq_foldl`). -/
theorem feedbackTapFormulas : Obligations.FeedbackTapFormulas :=
  ⟨fun k => ⟨fbK_eq_parity k, fbK_eq_xor_cells k⟩,
    fun a => ⟨fbA_eq_parity a, fbA_eq_xor_cells a⟩,
    fun b => ⟨fbB_eq_parity b, fbB_eq_xor_cells b⟩⟩

end Sys2Proof.Machine
end

section
/-! PROOFS. STEP (spec/42_step.md): its packed form (R90), the cells it moves and fills (R91, R92), its fixed point (R95),
and the count of commands as all that decides the registers and the keystream (R94). -/

namespace Sys2Proof.Machine

/-- Settles O20, by `stepEngine_eq_packedStep`. -/
theorem stepIsThePackedForm : Obligations.StepIsThePackedForm := stepEngine_eq_packedStep

/-! ### Register by register -/

/-- R90: STEP shifts each register and fills its cell 0 with the cross-coupled feedback of the old registers. -/
theorem stepEngine_eq_shiftAndFill (e : Engine) :
    stepEngine e = { a := shiftAndFill e.a (fbK e.k)
                     b := shiftAndFill e.b (xor (fbK e.k) (fbA e.a))
                     k := shiftAndFill e.k (xor (fbA e.a) (fbB e.b)) } := rfl

@[simp] theorem readCell_stepEngine_succ (e : Engine) (n : RegName) (i : Fin 31) :
    (stepEngine e).readCell n i.succ = e.readCell n i.castSucc := by
  rw [stepEngine_eq_shiftAndFill]
  cases n <;> exact cellRead_shiftAndFill_succ _ _ i

/-- Settles O21: each register of the stepped engine is a shift and fill (`stepEngine_eq_shiftAndFill`), whose cell 0 is
the fill and whose other cells are the moved ones (`readCell_stepEngine_succ`). -/
theorem stepShiftsAndCrossCouples : Obligations.StepShiftsAndCrossCouples :=
  fun _ => ⟨cellRead_shiftAndFill_zero _ _, cellRead_shiftAndFill_zero _ _, cellRead_shiftAndFill_zero _ _,
    readCell_stepEngine_succ _⟩

/-! ### The zero state -/

@[simp] theorem tapParity_zero (taps : List CellIndex) : tapParity taps 0#32 = false := by
  induction taps with
  | nil => rfl
  | cons i taps ih => rw [tapParity_cons, ih, cellRead_zero, Bool.xor_false]

@[simp] theorem fbK_zero : fbK 0#32 = false := tapParity_zero Config.tapsK

@[simp] theorem fbA_zero : fbA 0#32 = false := tapParity_zero Config.tapsA

@[simp] theorem fbB_zero : fbB 0#32 = false := tapParity_zero Config.tapsB

@[simp] theorem shiftAndFill_zero_false : shiftAndFill 0#32 false = 0#32 := by decide

theorem stepEngine_zero : stepEngine ⟨0#32, 0#32, 0#32⟩ = ⟨0#32, 0#32, 0#32⟩ := by
  simp [stepEngine_eq_shiftAndFill]

/-- Settles O22: no network sees a set cell (`tapParity_zero`), so zeros are shifted and zeros filled in. -/
theorem zeroIsFixedByStep : Obligations.ZeroIsFixedByStep :=
  ⟨stepEngine_zero, fbK_zero, fbA_zero, fbB_zero⟩

/-! ### A run of commands -/

@[simp] theorem event_presenting (i : Instr) : (Pins.presenting i).event = some (.cmd i) := by
  have word : (Pins.presenting i).commandWord = encode i := make_dir_data (encode i)
  rw [event_command (pins_presenting_rst i) (pins_presenting_cmdValid i), word, decode_encode]

@[simp] theorem eventsOf_map_presenting (is : List Instr) :
    eventsOf (is.map Pins.presenting) = is.map .cmd := by
  induction is with
  | nil => rfl
  | cons i is ih => rw [List.map_cons, eventsOf_cons, event_presenting, ih]; rfl

/-- From a state past its reset event, the machine facing the commands `is` runs the transaction machine on them. -/
theorem steps_facing_presenting (s : State) (is : List Instr) :
    ∃ t, steps is.length (s.facing (is.map Pins.presenting)) = .next t ∧
      t.engine = (runEvents s.engine (is.map .cmd)).1 ∧ t.taken = (runEvents s.engine (is.map .cmd)).2 := by
  have waiting : Constructed (s.facing []) := rfl
  obtain ⟨t, run, after, _⟩ := steps_afterEvents waiting (is.map Pins.presenting) []
  rw [List.length_map, List.append_nil] at run
  have engine := after.engine
  have taken := after.taken
  rw [eventsOf_map_presenting] at engine taken
  exact ⟨t, run, engine, taken⟩

/-- R94: the registers after a list of commands are decided by its length. -/
theorem runEvents_cmds_engine (e : Engine) (is : List Instr) :
    (runEvents e (is.map .cmd)).1 = stepsEngine is.length e := by
  induction is generalizing e with
  | nil => rfl
  | cons i is ih => exact ih (stepEngine e)

/-- The keystream byte of command number `n` (from 0) on an engine that starts from `e` (R94, R113). -/
def keystreamAt (e : Engine) (n : Nat) : Symbol :=
  keystream (stepsEngine (n + 1) e).a (stepsEngine (n + 1) e).b

theorem keystreamAt_succ (e : Engine) (n : Nat) : keystreamAt e (n + 1) = keystreamAt (stepEngine e) n := rfl

/-- The first command's output, and the outputs of the rest from the stepped registers. -/
theorem runEvents_cons_cmd_outputs (e : Engine) (i : Instr) (evs : List Event) :
    (runEvents e (.cmd i :: evs)).2 = (operand i ^^^ keystreamAt e 0) :: (runEvents (stepEngine e) evs).2 := rfl

/-- R94, R113: output number `n` is operand number `n` xor the keystream byte of that position. -/
theorem runEvents_cmds_getElem? (e : Engine) (is : List Instr) (n : Nat) :
    (runEvents e (is.map .cmd)).2[n]? = (is[n]?).map (fun i => operand i ^^^ keystreamAt e n) := by
  induction is generalizing e n with
  | nil => rfl
  | cons i is ih =>
    rw [List.map_cons, runEvents_cons_cmd_outputs]
    cases n with
    | zero => rfl
    | succ n =>
      rw [List.getElem?_cons_succ, List.getElem?_cons_succ, keystreamAt_succ]
      exact ih (stepEngine e) n

/-- Settles O39: the run is the transaction machine's on the commands (`steps_facing_presenting`), whose registers and
outputs follow by induction on the commands. -/
theorem stateAndKeystreamDependOnCount : Obligations.StateAndKeystreamDependOnCount := by
  intro s is
  obtain ⟨t, run, engine, taken⟩ := steps_facing_presenting s is
  refine ⟨t, run, engine.trans (runEvents_cmds_engine s.engine is), fun n => ?_⟩
  rw [taken]
  exact runEvents_cmds_getElem? s.engine is n

end Sys2Proof.Machine
end


section
/-! PROOFS. The keystream generator (spec/43_keystream.md): its closed form for this hardware (R103) and for any table
(R104), and the accumulator that wraps (R105). -/

namespace Sys2Proof.Machine

/-! ### The count of set window cells -/

theorem windowOnes_le (a b : Word) : windowOnes a b ≤ 16 :=
  Nat.add_le_add (popcount_le _) (popcount_le _)

/-- A value with as many ones as bits is all ones. -/
theorem eq_allOnes_of_popcount_eq {w : Nat} {v : BitVec w} (h : popcount v = w) : v = BitVec.allOnes w := by
  have full : ∀ i ∈ List.range w, v.getLsbD i = true :=
    List.countP_eq_length.mp (h.trans List.length_range.symm)
  refine BitVec.eq_of_getLsbD_eq fun i hi => ?_
  rw [full i (List.mem_range.mpr hi), BitVec.getLsbD_allOnes, decide_eq_true hi]

/-- Sixteen set window cells are all of A's and all of B's. -/
theorem top_bytes_of_windowOnes_eq {a b : Word} (h : windowOnes a b = 16) :
    a.extractLsb' 24 8 = 0xFF#8 ∧ b.extractLsb' 24 8 = 0xFF#8 := by
  have ha := popcount_le (a.extractLsb' 24 8)
  have hb := popcount_le (b.extractLsb' 24 8)
  rw [windowOnes] at h
  exact ⟨eq_allOnes_of_popcount_eq (by omega), eq_allOnes_of_popcount_eq (by omega)⟩

/-! ### The closed form on this hardware's table -/

theorem keystream_toNat (a b : Word) : (keystream a b).toNat = windowOnes a b := by
  have h := windowOnes_le a b
  rw [keystream_eq_windowOnes, BitVec.toNat_ofNat, Nat.mod_eq_of_lt (by omega)]

/-- A byte of at most 16 has bits 7 to 5 clear. -/
theorem high_bits_eq_zero_of_le {v : Symbol} (h : v.toNat ≤ 16) : v.extractLsb' 5 3 = 0#3 := by
  apply BitVec.eq_of_toNat_eq
  rw [BitVec.extractLsb'_toNat, Nat.shiftRight_eq_div_pow, BitVec.toNat_ofNat]
  omega

/-- Of the bytes 0 to 16 only 16 has bit 4 set. -/
theorem eq_sixteen_of_bit_four {v : Symbol} (h : v.toNat ≤ 16) (bit : v[4] = true) : v = 16#8 := by
  rw [BitVec.getElem_eq_testBit_toNat, Nat.testBit_eq_decide_div_mod_eq, decide_eq_true_eq] at bit
  apply BitVec.eq_of_toNat_eq
  rw [BitVec.toNat_ofNat]
  omega

/-- Settles O27: the byte is the count of set window cells (`keystream_toNat`), so at most 16, and bit 4 is set by 16
alone, which all the window cells make together (`top_bytes_of_windowOnes_eq`). -/
theorem keystreamCountsWindowOnes : Obligations.KeystreamCountsWindowOnes := by
  intro a b
  have count := keystream_toNat a b
  have bound : (keystream a b).toNat ≤ 16 := count.trans_le (windowOnes_le a b)
  refine ⟨count, bound, high_bits_eq_zero_of_le bound, fun bit => ?_⟩
  have all : keystream a b = 16#8 := eq_sixteen_of_bit_four bound bit
  obtain ⟨ha, hb⟩ := top_bytes_of_windowOnes_eq (count.symm.trans (congrArg BitVec.toNat all))
  exact ⟨ha, hb, by rw [all]; rfl⟩

/-! ### Any table -/

theorem count_false_windowCells (a b : Word) : (windowCells a b).count false = 16 - windowOnes a b := by
  have both := List.count_false_add_count_true (windowCells a b)
  rw [count_true_windowCells, windowCells_length] at both
  omega

/-- R104: one `T[1]` for each set window cell and one `T[0]` for each other. -/
theorem windowSum_eq (t : Symbol → Symbol) (a b : Word) :
    windowSum t a b = (16 - windowOnes a b) * (t 0#8).toNat + windowOnes a b * (t 1#8).toNat := by
  rw [windowSum, sum_table_entries, count_false_windowCells, count_true_windowCells]

/-- R104: sixteen table entries of at most 255 each. -/
theorem windowSum_le (t : Symbol → Symbol) (a b : Word) : windowSum t a b ≤ 4080 := by
  have entry : ∀ n ∈ (windowCells a b).map (fun c => (memRead t (cellIndex c)).toNat), n ≤ 255 := by
    intro n hn
    obtain ⟨c, -, rfl⟩ := List.mem_map.mp hn
    exact Nat.le_of_lt_succ (BitVec.isLt _)
  have bound := List.sum_le_card_nsmul _ 255 entry
  rwa [List.length_map, windowCells_length] at bound

theorem keystreamOver_eq_ofNat (t : Symbol → Symbol) (a b : Word) :
    keystreamOver t a b = BitVec.ofNat 8 (windowSum t a b) := by
  apply BitVec.eq_of_toNat_eq
  rw [keystreamOver, BitVec.toNat_ofNat, BitVec.toNat_ofNat]
  exact Nat.mod_mod _ _

/-- Settles O28, by counting the set and the other window cells (`windowSum_eq`). -/
theorem keystreamOverAnyTable : Obligations.KeystreamOverAnyTable := by
  intro t a b
  refine ⟨windowOnes_le a b, windowSum_le t a b, ?_⟩
  rw [keystreamOver_eq_ofNat, BitVec.toNat_ofNat, windowSum_eq]

/-! ### The accumulator that wraps -/

/-- Adding values up with wrap-around from `acc` adds their sum, reduced once, to `acc`: reduction is additive. -/
theorem foldl_add_eq_add_ofNat_sum {α : Type} {w : Nat} (f : α → BitVec w) (l : List α) (acc : BitVec w) :
    l.foldl (fun acc x => acc + f x) acc = acc + BitVec.ofNat w (l.map (fun x => (f x).toNat)).sum := by
  induction l generalizing acc with
  | nil => simp
  | cons x l ih =>
    rw [List.foldl_cons, ih, List.map_cons, List.sum_cons, BitVec.ofNat_add, BitVec.ofNat_toNat,
      BitVec.setWidth_eq, BitVec.add_assoc]

/-- Settles O31: wrapping after every addition and reducing once at the end agree (`foldl_add_eq_add_ofNat_sum`). -/
theorem wrappingAccumulatorAgrees : Obligations.WrappingAccumulatorAgrees := by
  intro t a b
  calc keystreamWrapping t a b
      = 0#8 + BitVec.ofNat 8 (windowSum t a b) :=
        foldl_add_eq_add_ofNat_sum (fun c => memRead t (cellIndex c)) (windowCells a b) 0#8
    _ = keystreamOver t a b := by rw [BitVec.zero_add, keystreamOver_eq_ofNat]

end Sys2Proof.Machine
end

section
/-! PROOFS. The cipher driver (spec/44_driver.md): what ENC and DEC answer (R111, R112, R114), the sequence operations
(R115 to R118), and the outputs from a safe state (R122). -/

namespace Sys2Proof.Machine

/-! ### One command -/

/-- R111, R112: whichever the command, its next state is the one the spec's closed formulas give. -/
theorem exec_eq_afterCommand (i : Instr) (s : State) : exec i s = .next (afterCommand (operand i) s) := by
  rw [exec_eq, processSymbol_eq]
  rfl

/-- Settles O32, by `exec_eq_afterCommand`; a word with `cw[8]` = 0 is read by `decode_make`. -/
theorem encResult : Obligations.EncResult :=
  fun d s => ⟨decode_make false d, exec_eq_afterCommand (.enc d) s⟩

/-- Settles O33, by `exec_eq_afterCommand`: both directions have the one next state. -/
theorem decResult : Obligations.DecResult := by
  intro d s
  have dec := exec_eq_afterCommand (.dec d) s
  have enc := exec_eq_afterCommand (.enc d) s
  exact ⟨decode_make true d, dec, dec.trans enc.symm⟩

/-- R103: a keystream byte is at most 16, so its bits 7 to 5 are clear. -/
theorem keystream_high_bits (a b : Word) : (keystream a b).extractLsb' 5 3 = 0#3 :=
  high_bits_eq_zero_of_le ((keystream_toNat a b).trans_le (windowOnes_le a b))

/-- R114: a keystream byte leaves bits 7 to 5 of a symbol alone. -/
theorem xor_keystream_high_bits (d : Symbol) (a b : Word) :
    (d ^^^ keystream a b).extractLsb' 5 3 = d.extractLsb' 5 3 := by
  rw [BitVec.extractLsb'_xor, keystream_high_bits, BitVec.xor_zero]

/-- Settles O36: the output is the operand xor the keystream byte of the new registers (`exec_eq`), and that byte's high
bits are clear (`xor_keystream_high_bits`). -/
theorem onlyLowFiveBitsChange : Obligations.OnlyLowFiveBitsChange := by
  intro i s
  exact ⟨_, _, exec_eq i s, rfl, fun _ => BitVec.getLsbD_xor, xor_cancel_right _ _,
    xor_keystream_high_bits _ _ _⟩

/-! ### Symbols as commands, in closed form -/

/-- The symbols, each xored with the keystream byte of its position on an engine that starts from `e`. -/
def xorKeystream (e : Engine) : List Symbol → List Symbol
  | [] => []
  | d :: ds => (d ^^^ keystreamAt e 0) :: xorKeystream (stepEngine e) ds

@[simp] theorem length_xorKeystream (e : Engine) (ds : List Symbol) :
    (xorKeystream e ds).length = ds.length := by
  induction ds generalizing e with
  | nil => rfl
  | cons d ds ih => rw [xorKeystream, List.length_cons, List.length_cons, ih]

/-- R116: the same keystream twice gives the symbols back. -/
@[simp] theorem xorKeystream_xorKeystream (e : Engine) (ds : List Symbol) :
    xorKeystream e (xorKeystream e ds) = ds := by
  induction ds generalizing e with
  | nil => rfl
  | cons d ds ih => rw [xorKeystream, xorKeystream, ih, xor_cancel_right]

/-- R113: when `f` makes of each symbol a command on it, of either direction, the commands step the registers once each
and output the symbols xor the keystream. -/
theorem runEvents_cmds_of_operand {f : Symbol → Instr} (hf : ∀ d, operand (f d) = d) (e : Engine)
    (ds : List Symbol) :
    runEvents e (ds.map (fun d => .cmd (f d))) = (stepsEngine ds.length e, xorKeystream e ds) := by
  induction ds generalizing e with
  | nil => rfl
  | cons d ds ih =>
    have registers := congrArg Prod.fst (ih (stepEngine e))
    refine Prod.ext registers ?_
    rw [List.map_cons, runEvents_cons_cmd_outputs, ih, hf, xorKeystream]

theorem encrypt_eq (e : Engine) (p : List Symbol) :
    encrypt e p = (stepsEngine p.length e, xorKeystream e p) :=
  runEvents_cmds_of_operand (fun _ => rfl) e p

theorem decrypt_eq (e : Engine) (c : List Symbol) :
    decrypt e c = (stepsEngine c.length e, xorKeystream e c) :=
  runEvents_cmds_of_operand (fun _ => rfl) e c

/-! ### The machine on symbols -/

/-- From a state past its reset event, the machine facing the cycles `ps` runs the transaction machine on the events
among them (R55). -/
theorem steps_facing (s : State) (ps : List Pins) :
    ∃ t, steps ps.length (s.facing ps) = .next t ∧
      (t.engine, t.taken) = runEvents s.engine (eventsOf ps) := by
  have waiting : Constructed (s.facing []) := rfl
  obtain ⟨t, run, after, _⟩ := steps_afterEvents waiting ps []
  rw [List.append_nil] at run
  exact ⟨t, run, Prod.ext after.engine after.taken⟩

theorem eventsOf_map_presenting_comp (f : Symbol → Instr) (ds : List Symbol) :
    eventsOf (ds.map (fun d => Pins.presenting (f d))) = ds.map (fun d => .cmd (f d)) := by
  simpa [Function.comp_def] using eventsOf_map_presenting (ds.map f)

/-- R118: presenting the commands one by one is the sequence operation on their symbols. -/
theorem steps_facing_map_presenting (s : State) (f : Symbol → Instr) (ds : List Symbol) :
    ∃ t, steps ds.length (s.facing (ds.map (fun d => Pins.presenting (f d)))) = .next t ∧
      (t.engine, t.taken) = runEvents s.engine (ds.map (fun d => .cmd (f d))) := by
  have run := steps_facing s (ds.map (fun d => Pins.presenting (f d)))
  rwa [List.length_map, eventsOf_map_presenting_comp] at run

/-- Settles O40, from the closed forms `encrypt_eq` and `decrypt_eq` and from the machine's runs on the ENC and on the
DEC commands (`steps_facing_map_presenting`). -/
theorem sequenceOperations : Obligations.SequenceOperations := by
  intro s p
  refine ⟨?_, ?_, ?_, ?_, rfl, rfl, steps_facing_map_presenting s .enc p,
    steps_facing_map_presenting s .dec p⟩
  · rw [encrypt_eq, length_xorKeystream]
  · rw [decrypt_eq, length_xorKeystream]
  · rw [encrypt_eq]
  · rw [decrypt_eq]

/-! ### The round trip -/

/-- The command of a direction bit on a byte (R51). -/
def directed (dir : Bool) (d : Symbol) : Instr := decode (CommandWord.make dir d)

@[simp] theorem operand_directed (dir : Bool) (d : Symbol) : operand (directed dir d) = d := by
  rw [directed, decode_make]
  cases dir <;> rfl

theorem presenting_directed (dir : Bool) (d : Symbol) :
    Pins.presenting (directed dir d) = ⟨false, true, dir, d⟩ := by
  rw [Pins.presenting, directed, encode_decode, Pins.command, make_dir, make_data]

/-- The machine facing the bytes `ds` in direction `dir`: the registers step once a byte, and the outputs are the bytes
xor the keystream. -/
theorem steps_facing_directed (s : State) (dir : Bool) (ds : List Symbol) :
    ∃ t, steps ds.length (s.facing (ds.map (fun d => ⟨false, true, dir, d⟩))) = .next t ∧
      t.engine = stepsEngine ds.length s.engine ∧ t.taken = xorKeystream s.engine ds := by
  obtain ⟨t, run, result⟩ := steps_facing_map_presenting s (directed dir) ds
  rw [runEvents_cmds_of_operand (operand_directed dir), Prod.mk.injEq] at result
  simp only [presenting_directed] at run
  exact ⟨t, run, result⟩

/-- Settles O41: both runs xor the same keystream onto the bytes (`steps_facing_directed`), which is undone the second
time (`xorKeystream_xorKeystream`). -/
theorem roundTripOnTwoEngines : Obligations.RoundTripOnTwoEngines := by
  intro s1 s2 dir1 dir2 p
  obtain ⟨t1, run1, engine1, taken1⟩ := steps_facing_directed s1 dir1 p
  obtain ⟨t2, run2, engine2, taken2⟩ :=
    steps_facing_directed { s2 with engine := s1.engine } dir2 t1.taken
  have length : t1.taken.length = p.length := by rw [taken1, length_xorKeystream]
  refine ⟨t1, t2, run1, run2, ?_, engine1, ?_⟩
  · rw [taken2, taken1, xorKeystream_xorKeystream]
  · rw [engine2, length, engine1]

/-! ### Two calls with idle cycles between them -/

theorem encrypt_append (e : Engine) (p q : List Symbol) :
    encrypt e (p ++ q) = ((encrypt (encrypt e p).1 q).1,
      (encrypt e p).2 ++ (encrypt (encrypt e p).1 q).2) := by
  rw [encrypt, List.map_append, runEvents_append]
  rfl

theorem eventsOf_append (ps qs : List Pins) : eventsOf (ps ++ qs) = eventsOf ps ++ eventsOf qs :=
  List.filterMap_append

/-- R54: idle cycles are no events. -/
@[simp] theorem eventsOf_replicate_idle (n : Nat) : eventsOf (List.replicate n Pins.idle) = [] := by
  have none : ∀ p ∈ List.replicate n Pins.idle, p.event = none := by
    intro p hp
    rw [List.eq_of_mem_replicate hp]
    exact event_idle rfl rfl
  exact List.filterMap_eq_nil_iff.mpr none

/-- Settles O42: the run is the transaction machine's on the events (`steps_facing`), and idle cycles are none of them
(`eventsOf_replicate_idle`). -/
theorem stateCarriesAcrossCalls : Obligations.StateCarriesAcrossCalls := by
  intro s p q idles
  refine ⟨by rw [encrypt_append], ?_⟩
  have run := steps_facing s (p.map (fun d => Pins.presenting (.enc d)) ++
    (List.replicate idles Pins.idle ++ q.map (fun d => Pins.presenting (.enc d))))
  rwa [List.length_append, List.length_append, List.length_map, List.length_map, List.length_replicate,
    eventsOf_append, eventsOf_append, eventsOf_replicate_idle, List.nil_append,
    eventsOf_map_presenting_comp, eventsOf_map_presenting_comp, ← List.map_append] at run

/-! ### Outputs from a safe state -/

/-- R122: on zero registers a symbol leaves them zero and meets the keystream byte 0. -/
theorem processSymbol_fresh (d : Symbol) : processSymbol Engine.fresh d = (Engine.fresh, d) := by
  have stepped : stepEngine Engine.fresh = Engine.fresh := stepEngine_zero
  have byte : keystream Engine.fresh.a Engine.fresh.b = 0#8 := by decide
  rw [processSymbol, stepped, byte, BitVec.xor_zero]

/-- The data byte of the cycle, if a command is accepted in it (R53). -/
def Pins.acceptedByte (p : Pins) : Option Symbol :=
  if p.rst = false ∧ p.cmdValid = true then some p.cmdData else none

theorem operand_decode_commandWord (p : Pins) : operand (decode p.commandWord) = p.cmdData :=
  operand_directed p.cmdDir p.cmdData

theorem safeState_resetEvent (s : State) : SafeState (resetEvent s) :=
  ⟨rfl, rfl, by simp⟩

theorem safeState_idleCycle {s : State} (h : SafeState s) : SafeState (idleCycle s) := by
  obtain ⟨constructed, zero, _⟩ := h
  exact ⟨constructed, zero, by simp⟩

/-- A command that leaves the registers zero leaves a safe state: its output is the last one taken. -/
theorem safeState_complete {s : State} (h : SafeState s) (d : Symbol) :
    SafeState (s.complete (Engine.fresh, d)) := by
  obtain ⟨constructed, _, _⟩ := h
  exact ⟨constructed, rfl, by simp⟩

/-- R122, R156, one clock cycle from a safe state: it ends in a safe state, and the host takes the accepted byte. -/
theorem clockCycle_safeState {s : State} (h : SafeState s) (p : Pins) :
    ∃ t, clockCycle p s = .next t ∧ SafeState t ∧ t.taken = s.taken ++ p.acceptedByte.toList ∧
      t.pending = s.pending := by
  have ⟨constructed, zero, _⟩ := h
  cases hr : p.rst with
  | true =>
    exact ⟨_, clockCycle_reset hr s, safeState_resetEvent s, by simp [Pins.acceptedByte, hr], rfl⟩
  | false =>
    cases hv : p.cmdValid with
    | false =>
      exact ⟨_, clockCycle_idle hr hv s, safeState_idleCycle h, by simp [Pins.acceptedByte, hv], rfl⟩
    | true =>
      have command : clockCycle p s = .next (s.complete (Engine.fresh, p.cmdData)) := by
        rw [clockCycle_command hr hv constructed, exec_eq, zero, operand_decode_commandWord,
          processSymbol_fresh]
      exact ⟨_, command, safeState_complete h _, by simp [Pins.acceptedByte, hr, hv], rfl⟩

theorem filterMap_acceptedByte_cons (p : Pins) (ps : List Pins) :
    (p :: ps).filterMap Pins.acceptedByte = p.acceptedByte.toList ++ ps.filterMap Pins.acceptedByte := by
  cases h : p.acceptedByte <;> simp [h]

theorem steps_safeState {s : State} (h : SafeState s) (ps : List Pins) :
    ∃ t, steps ps.length (s.withPending ps) = .next t ∧ SafeState t ∧
      t.taken = s.taken ++ ps.filterMap Pins.acceptedByte := by
  induction ps generalizing s with
  | nil => exact ⟨s.withPending [], rfl, h, by simp⟩
  | cons p ps ih =>
    have waiting : SafeState (s.withPending ps) := h
    obtain ⟨m, cycle, safe, first, pending⟩ := clockCycle_safeState waiting p
    obtain ⟨t, run, safe', rest⟩ := ih safe
    have waits : m.withPending ps = m := congrArg m.withPending pending.symm
    rw [waits, ← steps_succ_of_next ((step_withPending_cons s p ps).trans cycle)] at run
    refine ⟨t, run, safe', ?_⟩
    rw [rest, first, withPending_taken, List.append_assoc, filterMap_acceptedByte_cons]

/-- Settles O46, by induction on the cycles (`steps_safeState`): each keeps the state safe and gives the host the byte
it accepts (`clockCycle_safeState`). -/
theorem outputEqualsInputFromReset : Obligations.OutputEqualsInputFromReset :=
  fun _ ps safe => steps_safeState safe ps

end Sys2Proof.Machine
end

section
/-! PROOFS. Exceptions (spec/60_exceptions.md): the one cycle that is given no meaning (R132), and that nothing else stops
the engine (R130). -/

namespace Sys2Proof.Machine

/-! ### The refused cycle -/

theorem accepts_eq_true_iff {p : Pins} : p.accepts = true ↔ p.rst = false ∧ p.cmdValid = true := by
  simp [Pins.accepts]

/-- R132, one clock cycle: of the four ends it can have (`clockCycle_cases`), only a command before reset is a refusal. -/
theorem clockCycle_eq_refused_iff (p : Pins) (s : State) (r : Refusal) :
    clockCycle p s = .refused r ↔
      r = .commandBeforeReset ∧ s.lifecycle = .poweredOn ∧ p.accepts = true := by
  obtain ⟨hr, run⟩ | ⟨_, hv, run⟩ | ⟨_, _, constructed, run⟩ | ⟨hr, hv, poweredOn, run⟩ := clockCycle_cases p s
  · simp [run, accepts_eq_true_iff, hr]
  · simp [run, accepts_eq_true_iff, hv]
  · simp [run, show s.lifecycle = .constructed from constructed]
  · have accepted : p.accepts = true := accepts_eq_true_iff.mpr ⟨hr, hv⟩
    simp [run, accepted, poweredOn, eq_comm (a := r)]

/-- The next cycle accepts a command exactly when the host has listed one first: the idle default accepts none. -/
theorem sampledPins_accepts_iff (s : State) :
    s.sampledPins.accepts = true ↔
      ∃ (dir : Bool) (d : Symbol) (rest : List Pins), s.pending = ⟨false, true, dir, d⟩ :: rest := by
  cases h : s.pending with
  | nil => simp [State.sampledPins, h, Pins.idle, Pins.accepts]
  | cons p ps =>
    obtain ⟨rst, valid, dir, d⟩ := p
    simp [State.sampledPins, h, accepts_eq_true_iff]

/-- Settles O11, from the refused clock cycle (`clockCycle_eq_refused_iff`) and the cycle a step runs
(`sampledPins_accepts_iff`). -/
theorem onlyCommandsBeforeResetAreRefused : Obligations.OnlyCommandsBeforeResetAreRefused := by
  intro s r
  rw [step, clockCycle_eq_refused_iff, endCycle_lifecycle, sampledPins_accepts_iff]

/-! ### Nothing else stops the engine -/

theorem step_constructed {s : State} (h : Constructed s) : ∃ t, step s = .next t ∧ Constructed t := by
  have waiting : Constructed s.endCycle := h
  obtain ⟨t, run, after, _⟩ := clockCycle_afterEvents waiting s.sampledPins
  exact ⟨t, run, after.constructed⟩

/-- Settles O12: a command always completes with its output (`exec_eq`), and a step keeps an engine past its reset event
(`step_constructed`). -/
theorem nothingFaultsOrIsRefusedOnceReset : Obligations.NothingFaultsOrIsRefusedOnceReset :=
  ⟨fun i s => ⟨_, exec_eq i s, rfl⟩, fun _ => step_constructed⟩

end Sys2Proof.Machine
end

section
/-! PROOFS. What is reachable from reset (spec/70_reset_and_hazards.md R156): every step keeps a state safe. -/

namespace Sys2Proof.Machine

/-- Settles O45: a step is one clock cycle of the state whose host has moved on, and a clock cycle keeps a state safe
(`clockCycle_safeState`). -/
theorem everyStepKeepsSafeState : Obligations.EveryStepKeepsSafeState := by
  intro s safe
  have waiting : SafeState s.endCycle := safe
  obtain ⟨t, run, safe', _⟩ := clockCycle_safeState waiting s.sampledPins
  exact ⟨t, run, safe'⟩

end Sys2Proof.Machine
end

section
/-! PROOFS. The command word (spec/30_encoding.md): the spec's words (R63), the assembler's formula (R60) and the words of
the opcode table. -/

namespace Sys2Proof

/-- Settles O1, by evaluating `decode` at the eight words of the vectors. -/
theorem specWordsDecode : Obligations.SpecWordsDecode := by
  unfold Obligations.SpecWordsDecode
  decide

/-- R60: the direction in the more significant position, or-ed with the byte. -/
theorem make_eq_or (dir : Bool) (d : Symbol) :
    CommandWord.make dir d = (if dir then 0x100#9 else 0x000#9) ||| d.zeroExtend 9 := by
  rw [CommandWord.make, BitVec.append_def]
  cases dir <;> rfl

/-- Settles O4, by `make_eq_or`. -/
theorem encodingIsOrOfOperand : Obligations.EncodingIsOrOfOperand :=
  fun d => ⟨make_eq_or false d, make_eq_or true d⟩

theorem commandWordOf_of_lt {w : Nat} (h : w < 512) : commandWordOf w = .ok (BitVec.ofNat 9 w) := if_pos h

theorem commandWordOf_of_not_lt {w : Nat} (h : ¬ w < 512) :
    commandWordOf w = .error .widerThanCommandWord := if_neg h

theorem decodeTableWord_eq (nbits w : Nat) :
    decodeTableWord nbits w = if w < 512 then some (decode (BitVec.ofNat 9 w)) else none := by
  by_cases h : w < 512
  · rw [decodeTableWord, commandWordOf_of_lt h, if_pos h]
  · rw [decodeTableWord, commandWordOf_of_not_lt h, if_neg h]

/-- Settles O5, by `decodeTableWord_eq`. -/
theorem tableWordReading : Obligations.TableWordReading := decodeTableWord_eq

end Sys2Proof
end

section
/-! PROOFS. One clock cycle (spec/30_encoding.md R53, R54; spec/70_reset_and_hazards.md R150 to R153): reset, a command,
idle. -/

namespace Sys2Proof.Machine

/-! ### Reset and idle cycles -/

theorem step_reset {p : Pins} (h : p.rst = true) (s : State) (ps : List Pins) :
    step (s.withPending (p :: ps)) = .next (resetEvent (s.withPending ps)) :=
  clockCycle_reset h (s.withPending ps)

theorem step_idle {p : Pins} (hr : p.rst = false) (hv : p.cmdValid = false) (s : State) (ps : List Pins) :
    step (s.withPending (p :: ps)) = .next (idleCycle (s.withPending ps)) :=
  clockCycle_idle hr hv (s.withPending ps)

/-- Settles O9, by `step_reset`: the other pins decide nothing. -/
theorem resetCycleWins : Obligations.ResetCycleWins :=
  fun s rest v dir d => step_reset (p := ⟨true, v, dir, d⟩) rfl s rest

/-- Settles O10: the pins sampled from an empty list are idle ones. -/
theorem noListedCycleIsIdle : Obligations.NoListedCycleIsIdle :=
  fun s => clockCycle_idle (p := Pins.idle) rfl rfl (s.withPending [])

/-! ### Command cycles -/

@[simp] theorem commandWord_command (cw : CommandWord) : (Pins.command cw).commandWord = cw :=
  make_dir_data cw

/-- R53: the next cycle's command is the one its pins decode to. -/
theorem step_command {p : Pins} (hr : p.rst = false) (hv : p.cmdValid = true) {s : State} (hs : Constructed s)
    (ps : List Pins) : step (s.withPending (p :: ps)) = exec (decode p.commandWord) (s.withPending ps) :=
  clockCycle_command hr hv (s := s.withPending ps) hs

theorem step_command_word (cw : CommandWord) {s : State} (hs : Constructed s) (ps : List Pins) :
    step (s.withPending (Pins.command cw :: ps)) = exec (decode cw) (s.withPending ps) := by
  rw [step_command rfl rfl hs, commandWord_command]

theorem step_presenting (i : Instr) {s : State} (hs : Constructed s) (ps : List Pins) :
    step (s.withPending (Pins.presenting i :: ps)) = exec i (s.withPending ps) := by
  rw [Pins.presenting, step_command_word _ hs, decode_encode]

/-- Settles O6, by `step_command` for the pins themselves and by `step_presenting` for an encoded command. -/
theorem stepRunsTheDecodedCommand : Obligations.StepRunsTheDecodedCommand :=
  ⟨fun s rest dir d =>
    step_command (p := ⟨false, true, dir, d⟩) (s := { s with lifecycle := .constructed }) rfl rfl rfl rest,
    fun s rest i => step_presenting i (s := { s with lifecycle := .constructed }) rfl rest⟩

/-- Settles O7, by the three cases of R53: `step_reset`, `step_command` with the command's result in closed form
(`exec_eq_afterCommand`), `step_idle`. -/
theorem clockCycleHasThreeCases : Obligations.ClockCycleHasThreeCases := by
  intro s rest rst valid dir d s0
  let constructed : State := { s with lifecycle := .constructed }
  cases rst with
  | true => exact step_reset (p := ⟨true, valid, dir, d⟩) rfl constructed rest
  | false =>
    cases valid with
    | false => exact step_idle (p := ⟨false, false, dir, d⟩) rfl rfl constructed rest
    | true =>
      have command := step_command (p := ⟨false, true, dir, d⟩) (s := constructed) rfl rfl rfl rest
      rw [exec_eq_afterCommand, operand_decode_commandWord] at command
      exact command

/-- A table word that decodes is placed as the cycle that presents it. -/
theorem withFetchWord_of_lt {w : Nat} (h : w < 512) (s : State) (nbits : Nat) :
    s.withFetchWord nbits w = s.withPending (Pins.command (BitVec.ofNat 9 w) :: s.pending) := by
  rw [State.withFetchWord, State.presentTableWord, commandWordOf_of_lt h]

/-- Settles O8: a table word that decodes is below 512 (`decodeTableWord_eq`), and the cycle placed for it is run by the
next step (`step_command_word`). -/
theorem placedWordRunsNext : Obligations.PlacedWordRunsNext := by
  intro s nbits w i constructed reads
  rw [decodeTableWord_eq] at reads
  obtain ⟨fits, command⟩ := Option.ite_none_right_eq_some.mp reads
  rw [withFetchWord_of_lt fits, step_command_word _ constructed, withPending_self, Option.some.inj command]

/-- Settles O13: the reset cycle is `step_reset`, the cycle after it `step_presenting`, and a command on zero registers
leaves them zero and outputs its own byte (`processSymbol_fresh`). -/
theorem resetThenCommandFromPowerOn : Obligations.ResetThenCommandFromPowerOn := by
  intro e o i rest
  let on := State.powerOn e o []
  have reset : step (on.withPending (Pins.reset :: Pins.presenting i :: rest)) =
      .next (resetEvent (on.withPending (Pins.presenting i :: rest))) := step_reset rfl on _
  have command : step ((resetEvent on).withPending (Pins.presenting i :: rest)) =
      .next (((resetEvent on).withPending rest).complete (Engine.fresh, operand i)) := by
    rw [step_presenting i rfl, exec_eq, withPending_engine, resetEvent_engine, processSymbol_fresh]
  exact ⟨_, _, reset, rfl, rfl, rfl, rfl, command, rfl, rfl, rfl⟩

/-! ### A command's frame and what it shares with every other command -/

/-- Settles O34: a command completes with its output and does nothing else (`exec_eq`). -/
theorem commandFrame : Obligations.CommandFrame := by
  intro i s t run
  rw [exec_eq, Host.Outcome.next.injEq] at run
  subst run
  exact ⟨rfl, rfl, rfl, rfl, rfl⟩

/-- Settles O35: the closed form of a command's next state names the operand in the output alone
(`exec_eq_afterCommand`). -/
theorem nextStateIgnoresTheCommand : Obligations.NextStateIgnoresTheCommand := by
  intro s
  refine ⟨_, rfl, fun i => ⟨_, exec_eq_afterCommand i s, rfl, ?_⟩⟩
  rw [keystream_eq_windowOnes]
  rfl

end Sys2Proof.Machine
end

section
/-! PROOFS. The feedback engine (spec/41_feedback.md): the sum modulo 2 and the mask of a tap set (R80), and the laws of
the family (R86). -/

namespace Sys2Proof.Machine

/-! ### The sum of the tapped cells -/

theorem sum_toNat_eq_countP {α : Type} (p : α → Bool) (l : List α) :
    (l.map (fun x => (p x).toNat)).sum = l.countP p := by
  induction l with
  | nil => rfl
  | cons x l ih =>
    rw [List.map_cons, List.sum_cons, ih, List.countP_cons]
    cases p x <;> simp [Nat.add_comm]

/-- R80: the feedback bit is the sum of the tapped cells modulo 2. -/
theorem tapParity_eq_sum_mod_two (taps : List CellIndex) (r : Word) :
    tapParity taps r = decide ((taps.map (fun i => (cellRead r i).toNat)).sum % 2 = 1) := by
  rw [sum_toNat_eq_countP]
  exact foldr_xor_eq_odd_countP (cellRead r) taps

/-! ### The mask of a tap set -/

theorem tapMask_cons (i : CellIndex) (taps : List CellIndex) :
    tapMask (i :: taps) = BitVec.twoPow 32 i.val + tapMask taps := by
  have power : BitVec.ofNat 32 (2 ^ i.val) = BitVec.twoPow 32 i.val := by
    apply BitVec.eq_of_toNat_eq
    simp
  rw [tapMask, List.map_cons, List.sum_cons, BitVec.ofNat_add, power]
  rfl

@[simp] theorem cellRead_or (x y : Word) (i : CellIndex) :
    cellRead (x ||| y) i = (cellRead x i || cellRead y i) := BitVec.getLsbD_or

theorem cellRead_twoPow (i j : CellIndex) : cellRead (BitVec.twoPow 32 i.val) j = decide (j = i) := by
  simp [cellRead, Fin.ext_iff, eq_comm]

/-- The mask of a tap set has exactly the tapped cells set: distinct powers of two add up without a carry. -/
theorem cellRead_tapMask {taps : List CellIndex} (distinct : taps.Nodup) (j : CellIndex) :
    cellRead (tapMask taps) j = decide (j ∈ taps) := by
  induction taps generalizing j with
  | nil => exact cellRead_zero j
  | cons i taps ih =>
    obtain ⟨fresh, distinct⟩ := List.nodup_cons.mp distinct
    have disjoint : BitVec.twoPow 32 i.val &&& tapMask taps = 0#32 := by
      refine word_ext_cells fun n => ?_
      rw [cellRead_and, cellRead_twoPow, ih distinct, cellRead_zero]
      by_cases h : n = i
      · subst h; simp [fresh]
      · simp [h]
    rw [tapMask_cons, BitVec.add_eq_or_of_and_eq_zero _ _ disjoint, cellRead_or, cellRead_twoPow, ih distinct]
    simp

/-- R80: where no tap is listed twice, the feedback bit is the parity under the mask of the tap set. -/
theorem tapParity_eq_parity_and_tapMask {taps : List CellIndex} (distinct : taps.Nodup) (r : Word) :
    tapParity taps r = parity (r &&& tapMask taps) := by
  have cells : ((List.finRange 32).filter (cellRead (tapMask taps))).Perm taps := by
    refine (List.perm_ext_iff_of_nodup ((List.nodup_finRange 32).filter _) distinct).mpr fun i => ?_
    simp [cellRead_tapMask distinct]
  exact (parity_and_eq_of_perm cells r).symm

/-- Settles O17, by `tapParity_eq_sum_mod_two` and `tapParity_eq_parity_and_tapMask`. -/
theorem feedbackIsSumModTwo : Obligations.FeedbackIsSumModTwo :=
  ⟨tapParity_eq_sum_mod_two, fun _ r distinct => tapParity_eq_parity_and_tapMask distinct r, rfl, rfl, rfl⟩

/-! ### The laws of the family -/

theorem fbK_xor (x y : Word) : fbK (x ^^^ y) = xor (fbK x) (fbK y) := tapParity_xor Config.tapsK x y

theorem fbA_xor (x y : Word) : fbA (x ^^^ y) = xor (fbA x) (fbA y) := tapParity_xor Config.tapsA x y

theorem fbB_xor (x y : Word) : fbB (x ^^^ y) = xor (fbB x) (fbB y) := tapParity_xor Config.tapsB x y

/-- R86 law 3: clearing cells that are not tapped changes nothing. -/
theorem tapParity_and {taps : List CellIndex} {m : Word} (tapped : ∀ i ∈ taps, cellRead m i = true) (r : Word) :
    tapParity taps r = tapParity taps (r &&& m) :=
  tapParity_congr fun i hi => by rw [cellRead_and, tapped i hi, Bool.and_true]

/-- Settles O19: laws 1 to 3 hold of any network (`tapParity_zero`, `tapParity_xor`, `tapParity_and`); laws 4 and 5 are
about fixed words, at which each of the three functions is evaluated. -/
theorem feedbackLaws : Obligations.FeedbackLaws := by
  refine List.forall_mem_cons.mpr ⟨?_, List.forall_mem_cons.mpr ⟨?_, List.forall_mem_singleton.mpr ?_⟩⟩
  · exact ⟨fbK_zero, fbK_xor, tapParity_and (by decide), by decide⟩
  · exact ⟨fbA_zero, fbA_xor, tapParity_and (by decide), by decide⟩
  · exact ⟨fbB_zero, fbB_xor, tapParity_and (by decide), by decide⟩

end Sys2Proof.Machine
end

section
/-! PROOFS. The laws of STEP (spec/42_step.md R96): it is linear, it has an inverse, and it carries cells upward. -/

namespace Sys2Proof.Machine

/-! ### Linearity -/

theorem shiftAndFill_xor (x y : Word) (v w : Bool) :
    shiftAndFill (x ^^^ y) (xor v w) = shiftAndFill x v ^^^ shiftAndFill y w := by
  refine word_ext_cells fun i => ?_
  cases i using Fin.cases with
  | zero => simp
  | succ i => simp

/-- The cross-coupled bits of two states can be gathered state by state. -/
theorem xor_xor_xor_comm (p q r t : Bool) : xor (xor p q) (xor r t) = xor (xor p r) (xor q t) := by
  rw [Bool.xor_assoc, Bool.xor_left_comm q, ← Bool.xor_assoc]

/-- Settles O23: each register of the stepped engine is a shift and fill, which is linear (`shiftAndFill_xor`), of linear
feedback bits (`fbK_xor`, `fbA_xor`, `fbB_xor`). -/
theorem stepIsLinear : Obligations.StepIsLinear := by
  intro s t
  simp only [stepEngine_eq_shiftAndFill, fbK_xor, fbA_xor, fbB_xor, ← shiftAndFill_xor, Engine.mk.injEq, true_and]
  rw [xor_xor_xor_comm, xor_xor_xor_comm (fbA s.a)]
  exact ⟨rfl, rfl⟩

/-! ### One register backwards -/

theorem xor_xor_cancel_left_bool (x y : Bool) : xor x (xor x y) = y := by
  rw [← Bool.xor_assoc, Bool.xor_self, Bool.false_xor]

theorem xor_xor_cancel_right_bool (x y : Bool) : xor (xor x y) y = x := by
  rw [Bool.xor_assoc, Bool.xor_self, Bool.xor_false]

/-- A tap of a network can be read apart from the others. -/
theorem tapParity_eq_xor_erase {i : CellIndex} {taps : List CellIndex} (tapped : i ∈ taps) (r : Word) :
    tapParity taps r = xor (cellRead r i) (tapParity (taps.erase i) r) :=
  tapParity_perm (List.perm_cons_erase tapped) r

theorem cellRead_unshift_last (taps : List CellIndex) (f : Bool) (r : Word) :
    cellRead (unshift taps f r) 31 = xor f (tapParity (taps.erase 31) (r >>> 1)) := by
  rw [unshift, cellRead_cellWrite, if_pos rfl]

theorem cellRead_unshift_of_ne {i : CellIndex} (h : i ≠ 31) (taps : List CellIndex) (f : Bool) (r : Word) :
    cellRead (unshift taps f r) i = cellRead (r >>> 1) i := by
  rw [unshift, cellRead_cellWrite, if_neg h]

theorem cellRead_ushiftRight_castSucc (r : Word) (i : Fin 31) :
    cellRead (r >>> 1) i.castSucc = cellRead r i.succ := by
  simp [cellRead, Nat.add_comm]

/-- R96 law 3: the lost cell as the rule writes it, `m` being the mask of the taps other than 31. -/
theorem cellRead_unshift_last_eq_parity {taps : List CellIndex} {m : Word}
    (mask : ((List.finRange 32).filter (cellRead m)).Perm (taps.erase 31)) (f : Bool) (r : Word) :
    cellRead (unshift taps f r) 31 = xor f (parity ((r >>> 1) &&& m)) := by
  rw [cellRead_unshift_last, parity_and_eq_of_perm mask]

@[simp] theorem cellRead_unshift_castSucc (taps : List CellIndex) (f : Bool) (r : Word) (i : Fin 31) :
    cellRead (unshift taps f r) i.castSucc = cellRead r i.succ := by
  rw [cellRead_unshift_of_ne (Fin.castSucc_lt_last i).ne, cellRead_ushiftRight_castSucc]

/-- A network without a tap at cell 31 sees the old cells after the shift back. -/
theorem tapParity_ushiftRight_shiftAndFill {taps : List CellIndex} (h : 31 ∉ taps) (r : Word) (v : Bool) :
    tapParity taps (shiftAndFill r v >>> 1) = tapParity taps r := by
  refine tapParity_congr fun i hi => ?_
  cases i using Fin.lastCases with
  | last => exact absurd hi h
  | cast i => rw [cellRead_ushiftRight_castSucc, cellRead_shiftAndFill_succ]

/-- R96 law 3: the bits that were moved come back, and the one that was lost is the feedback bit without the other taps. -/
theorem unshift_shiftAndFill {taps : List CellIndex} (tapped : 31 ∈ taps) (once : 31 ∉ taps.erase 31) (r : Word)
    (v : Bool) : unshift taps (tapParity taps r) (shiftAndFill r v) = r := by
  refine word_ext_cells fun i => ?_
  cases i using Fin.lastCases with
  | last =>
    refine (cellRead_unshift_last _ _ _).trans ?_
    rw [tapParity_ushiftRight_shiftAndFill once, tapParity_eq_xor_erase tapped, xor_xor_cancel_right_bool]
    rfl
  | cast i => rw [cellRead_unshift_castSucc, cellRead_shiftAndFill_succ]

/-- R96 law 3: the register before has the feedback bit it was computed from. -/
theorem tapParity_unshift {taps : List CellIndex} (tapped : 31 ∈ taps) (once : 31 ∉ taps.erase 31) (f : Bool)
    (r : Word) : tapParity taps (unshift taps f r) = f := by
  have others : tapParity (taps.erase 31) (unshift taps f r) = tapParity (taps.erase 31) (r >>> 1) :=
    tapParity_congr fun i hi => cellRead_unshift_of_ne (ne_of_mem_of_not_mem hi once) taps f r
  rw [tapParity_eq_xor_erase tapped, others, cellRead_unshift_last, xor_xor_cancel_right_bool]

theorem shiftAndFill_unshift (taps : List CellIndex) (f : Bool) (r : Word) :
    shiftAndFill (unshift taps f r) (cellRead r 0) = r := by
  refine word_ext_cells fun i => ?_
  cases i using Fin.cases with
  | zero => simp
  | succ i => simp

/-! ### The engine backwards -/

theorem fbK_unshift (f : Bool) (k : Word) : fbK (unshift Config.tapsK f k) = f :=
  tapParity_unshift (by decide) (by decide) f k

theorem fbA_unshift (f : Bool) (a : Word) : fbA (unshift Config.tapsA f a) = f :=
  tapParity_unshift (by decide) (by decide) f a

theorem fbB_unshift (f : Bool) (b : Word) : fbB (unshift Config.tapsB f b) = f :=
  tapParity_unshift (by decide) (by decide) f b

/-- The three feedback bits are read off the cells 0 they were filled into (R92). -/
theorem unstepEngine_stepEngine (e : Engine) : unstepEngine (stepEngine e) = e := by
  have a : unshift Config.tapsA (fbA e.a) (stepEngine e).a = e.a := unshift_shiftAndFill (by decide) (by decide) _ _
  have b : unshift Config.tapsB (fbB e.b) (stepEngine e).b = e.b := unshift_shiftAndFill (by decide) (by decide) _ _
  have k : unshift Config.tapsK (fbK e.k) (stepEngine e).k = e.k := unshift_shiftAndFill (by decide) (by decide) _ _
  have a0 : cellRead (stepEngine e).a 0 = fbK e.k := cellRead_shiftAndFill_zero _ _
  have b0 : cellRead (stepEngine e).b 0 = xor (fbK e.k) (fbA e.a) := cellRead_shiftAndFill_zero _ _
  have k0 : cellRead (stepEngine e).k 0 = xor (fbA e.a) (fbB e.b) := cellRead_shiftAndFill_zero _ _
  have fB : xor (xor (fbA e.a) (fbB e.b)) (fbA e.a) = fbB e.b := by
    rw [Bool.xor_right_comm, Bool.xor_self, Bool.false_xor]
  rw [unstepEngine, a0, b0, k0, xor_xor_cancel_left_bool, fB, a, b, k]

/-- The feedback bits of the state before, xored as R92 fills them in, are the cells 0 they were read off. -/
theorem stepEngine_unstepEngine (e : Engine) : stepEngine (unstepEngine e) = e := by
  have k0 (f : Bool) : xor f (xor (cellRead e.k 0) f) = cellRead e.k 0 := by
    rw [Bool.xor_left_comm, Bool.xor_self, Bool.xor_false]
  simp only [stepEngine_eq_shiftAndFill, unstepEngine, fbK_unshift, fbA_unshift, fbB_unshift, xor_xor_cancel_left_bool,
    k0, shiftAndFill_unshift]

theorem stepEngine_eq_fresh_iff (e : Engine) : stepEngine e = Engine.fresh ↔ e = Engine.fresh := by
  have injective : Function.Injective stepEngine := Function.LeftInverse.injective unstepEngine_stepEngine
  have fixed : stepEngine Engine.fresh = Engine.fresh := stepEngine_zero
  exact ⟨fun h => injective (h.trans fixed.symm), fun h => h ▸ fixed⟩

/-- Settles O24: `unstepEngine` undoes STEP on both sides, its cells are those of `unshift`
(`cellRead_unshift_last_eq_parity`, `cellRead_unshift_castSucc`), and STEP is injective and keeps the zero state
(`stepEngine_eq_fresh_iff`). -/
theorem stepIsInvertible : Obligations.StepIsInvertible := by
  refine ⟨fun e => ⟨unstepEngine_stepEngine e, stepEngine_unstepEngine e⟩, fun e => ⟨?_, ?_, ?_, fun n i => ?_⟩,
    stepEngine_eq_fresh_iff⟩
  · exact cellRead_unshift_last_eq_parity (taps := Config.tapsK) (by decide) _ _
  · exact cellRead_unshift_last_eq_parity (taps := Config.tapsA) (by decide) _ _
  · exact cellRead_unshift_last_eq_parity (taps := Config.tapsB) (by decide) _ _
  · cases n <;> exact cellRead_unshift_castSucc _ _ _ i

/-! ### Cells carried upward -/

/-- Settles O25, by induction on the steps: the first carries cell `i` to the cell above it
(`readCell_stepEngine_succ`), the others carry it on from there. -/
theorem stepsCarryCellsUpward : Obligations.StepsCarryCellsUpward := by
  intro n
  induction n with
  | zero =>
    intro e r i j h
    rw [Fin.ext h]
    rfl
  | succ n ih =>
    intro e r i j h
    cases i using Fin.lastCases with
    | last => exact absurd j.isLt (by rw [h, Fin.val_last]; omega)
    | cast i =>
      have above : j.val = i.succ.val + n := by rw [h, Fin.val_succ, Fin.val_castSucc]; omega
      exact (ih (stepEngine e) r i.succ j above).trans (readCell_stepEngine_succ e r i)

/-- Settles O26, by running the seed. -/
theorem seedReachesKeystreamAtStep24 : Obligations.SeedReachesKeystreamAtStep24 := by
  unfold Obligations.SeedReachesKeystreamAtStep24
  decide

end Sys2Proof.Machine
end

section
/-! PROOFS. The keystream generator (spec/43_keystream.md): of the table it reads entries 0 and 1 (R101), of the registers
the 16 window cells, in any order (R107). -/

namespace Sys2Proof.Machine

/-- Settles O29: the closed form of the sum names no other entry (`windowSum_eq`). -/
theorem keystreamReadsEntriesZeroAndOne : Obligations.KeystreamReadsEntriesZeroAndOne := by
  intro t t' a b zero one
  rw [keystreamOver_eq_ofNat, keystreamOver_eq_ofNat, windowSum_eq, windowSum_eq, zero, one]

/-- R107 law 1: a sum does not depend on the order of its summands. -/
theorem keystream_eq_of_perm {a b a' b' : Word} (h : (windowCells a b).Perm (windowCells a' b')) :
    keystream a b = keystream a' b' := by
  have sums : windowSum Config.table a b = windowSum Config.table a' b' := (h.map _).sum_eq
  rw [keystream, keystream, keystreamOver, keystreamOver, sums]

theorem windowCells_perm_swap (a b : Word) : (windowCells a b).Perm (windowCells b a) :=
  List.perm_append_comm

/-- R107 law 3: the window lies in the cells that the mask keeps. -/
theorem map_window_and_mask (r : Word) :
    Config.window.map (cellRead (r &&& 0xFF000000#32)) = Config.window.map (cellRead r) := by
  have kept : ∀ i ∈ Config.window, cellRead 0xFF000000#32 i = true := by decide
  exact List.map_congr_left fun i hi => by rw [cellRead_and, kept i hi, Bool.and_true]

theorem windowCells_and_mask (a b : Word) :
    windowCells (a &&& 0xFF000000#32) (b &&& 0xFF000000#32) = windowCells a b := by
  rw [windowCells, map_window_and_mask, map_window_and_mask]
  rfl

/-- Settles O30: law 1 is `keystream_eq_of_perm`, and it gives law 2 by `windowCells_perm_swap` and law 3 by
`windowCells_and_mask`. -/
theorem keystreamSeesWindowInAnyOrder : Obligations.KeystreamSeesWindowInAnyOrder :=
  ⟨fun _ _ _ _ => keystream_eq_of_perm, fun a b => keystream_eq_of_perm (windowCells_perm_swap a b),
    fun a b => keystream_eq_of_perm (.of_eq (windowCells_and_mask a b).symm)⟩

end Sys2Proof.Machine
end

section
/-! PROOFS. Runs: idle cycles can be dropped (spec/30_encoding.md R54), a reset restarts the keystream
(spec/70_reset_and_hazards.md R160), and the statefulness hazard (R158). -/

namespace Sys2Proof.Machine

/-! ### Idle cycles -/

/-- R55: taking the idle cycles out leaves the events. -/
theorem eventsOf_filter_not_idle (ps : List Pins) :
    eventsOf (ps.filter (fun p => p.rst || p.cmdValid)) = eventsOf ps := by
  induction ps with
  | nil => rfl
  | cons p ps ih =>
    cases h : p.rst || p.cmdValid with
    | true => rw [List.filter_cons_of_pos (by simpa using h), eventsOf_cons, ih, eventsOf_cons]
    | false =>
      obtain ⟨hr, hv⟩ := Bool.or_eq_false_iff.mp h
      rw [List.filter_cons_of_neg (by simp [h]), ih, eventsOf_cons, event_idle hr hv]
      rfl

/-- Settles O38: an idle cycle is `step_idle`, and both runs follow the transaction machine (`steps_afterEvents`) on the
same events (`eventsOf_filter_not_idle`). -/
theorem idleCyclesCanBeDropped : Obligations.IdleCyclesCanBeDropped := by
  refine ⟨fun s rest dir d => step_idle (p := ⟨false, false, dir, d⟩) rfl rfl s rest, fun s ps constructed => ?_⟩
  obtain ⟨t, run, after, _⟩ := steps_afterEvents constructed ps []
  obtain ⟨u, run', after', _⟩ :=
    steps_afterEvents constructed (ps.filter (fun p => p.rst || p.cmdValid)) []
  rw [List.append_nil] at run run'
  rw [eventsOf_filter_not_idle] at after'
  exact ⟨t, u, run, run', after.engine.trans after'.engine.symm, after.taken.trans after'.taken.symm,
    after.constructed.trans after'.constructed.symm⟩

/-! ### Reset between commands -/

/-- Settles O47: the reset cycle leaves an engine with zero registers facing the commands (`step_reset`), which runs the
transaction machine on them (`steps_facing_presenting`). -/
theorem resetRestartsTheKeystream : Obligations.ResetRestartsTheKeystream := by
  intro s is
  let s0 : State := { s with taken := [] }
  have reset : step (s0.withPending (Pins.reset :: is.map Pins.presenting)) =
      .next ((resetEvent s0).facing (is.map Pins.presenting)) := step_reset rfl s0 _
  obtain ⟨t, run, engine, taken⟩ := steps_facing_presenting (resetEvent s0) is
  exact ⟨t, (steps_succ_of_next reset is.length).trans run, Prod.ext engine taken⟩

/-- Settles O48, by running program P4. -/
theorem statefulnessHazardExample : Obligations.StatefulnessHazardExample := by
  unfold Obligations.StatefulnessHazardExample
  decide

end Sys2Proof.Machine
end

section
/-! PROOFS. Programs and several engines (spec/30_encoding.md R57, R61; spec/10_state.md R24). -/

namespace Sys2Proof.Machine

/-! ### Pseudo-instructions -/

/-- Settles O49, line by line: ENCS and DECS present one cycle per operand, IDLE n idle cycles. -/
theorem pseudoInstructionsExpand : Obligations.PseudoInstructionsExpand := by
  refine ⟨fun imms => ⟨List.map_eq_flatMap, List.map_eq_flatMap⟩, rfl,
    fun n => ⟨List.length_replicate, fun p hp => ?_⟩, ⟨_, rfl, rfl⟩⟩
  rw [List.eq_of_mem_replicate hp]
  exact ⟨rfl, rfl⟩

/-- Settles O50: the step runs `ENC 0` (`step_presenting`), and 0 xor the keystream byte is that byte. -/
theorem ksbOutputsTheKeystreamByte : Obligations.KsbOutputsTheKeystreamByte := by
  intro s rest
  have run := step_presenting (.enc 0x00#8) (s := s.facing []) rfl rest
  rw [exec_eq] at run
  refine ⟨_, run, ?_, stepEngine_eq_packedStep s.engine⟩
  exact congrArg (OutPort.mk true) BitVec.zero_xor

/-! ### Several engines -/

/-- Everything a system's step can end in: the number names no engine and nothing happens, or it names one, which takes
its own step. -/
theorem stepMember_cases {n : Nat} {sys sys' : List State} (h : stepMember n sys = .next sys') :
    (sys[n]? = none ∧ sys' = sys) ∨
    ∃ s t, sys[n]? = some s ∧ step s = .next t ∧ sys' = sys.set n t := by
  induction sys generalizing n sys' with
  | nil => simp_all [stepMember]
  | cons s rest ih =>
    cases n with
    | zero =>
      cases hs : step s with
      | next t => simp_all [stepMember]
      | fault f => simp [stepMember, hs] at h
      | refused r => simp [stepMember, hs] at h
    | succ n =>
      cases hr : stepMember n rest with
      | next ts =>
        obtain rfl : s :: ts = sys' := by simpa [stepMember, hr] using h
        obtain ⟨nobody, rfl⟩ | ⟨s', t, member, run, rfl⟩ := ih hr
        · exact .inl ⟨nobody, rfl⟩
        · exact .inr ⟨s', t, member, run, rfl⟩
      | fault f => simp [stepMember, hr] at h
      | refused r => simp [stepMember, hr] at h

/-- Settles O51: a system's step either does nothing or sets entry `n` to that engine's next state
(`stepMember_cases`). -/
theorem enginesShareNothing : Obligations.EnginesShareNothing := by
  intro n sys sys' h
  obtain ⟨nobody, rfl⟩ | ⟨s, t, member, run, rfl⟩ := stepMember_cases h
  · exact ⟨rfl, fun _ _ => rfl, fun s member => absurd member (by simp [nobody])⟩
  · have inRange : n < sys.length := (List.getElem?_eq_some_iff.mp member).1
    refine ⟨List.length_set, fun m hm => List.getElem?_set_ne hm.symm, fun s' member' => ?_⟩
    obtain rfl : s = s' := Option.some.inj (member.symm.trans member')
    exact ⟨t, run, List.getElem?_set_self inRange⟩

end Sys2Proof.Machine
end
